-- ==== Sys2Proof/Word.lean ====
section
/-! DEFINITION. The words and byte strings of the ADE (spec/00_scope.md R11, R12). -/

namespace Sys2Proof

/-- A byte: an 8-bit unsigned value (R11). -/
abbrev Byte := BitVec 8

/-- A word: 32 bits (R11), the host's data width (R9). -/
abbrev Word := BitVec 32

/-- A byte string, indexed from 0 (R12). Its length is part of the value. -/
abbrev Bytes := List Byte

/-- The string of `k` zero bytes, `0^k` (R12). -/
abbrev zeros (k : Nat) : Bytes := List.replicate k 0#8

end Sys2Proof
end

