-- ==== Sys2Proof/Syntax.lean ====
section
/-! DEFINITION. What the outside world can ask of the ADE: the command words (spec/30_encoding.md R111, R112; one
constructor per row of spec/opcode_table.json), the host's bus transactions (spec/20_memory.md R85), and the events
that are totally ordered with the sequencer's steps (R89, R317). -/

namespace Sys2Proof

/-- The commands: one constructor per row of the opcode table (R111). No command has an operand field (R110): every
operand comes from the operand registers (R120). -/
inductive Instr where
  /-- 0x0, R272. -/
  | nop
  /-- 0x1, R273. -/
  | encrypt
  /-- 0x2, R274. -/
  | decrypt
  /-- 0x3, R153. -/
  | primEnc
  /-- 0x4, R154. -/
  | primDec
  /-- 0x5, R155. -/
  | primPerm
  /-- 0x6, R275. -/
  | zeroize
  /-- 0x7, kept for a hash command, R276. -/
  | reservedHash
  /-- 0x8, R276. -/
  | reserved8
  /-- 0x9, R276. -/
  | reserved9
  /-- 0xA, R276. -/
  | reservedA
  /-- 0xB, R276. -/
  | reservedB
  /-- 0xC, R276. -/
  | reservedC
  /-- 0xD, R276. -/
  | reservedD
  /-- 0xE, R276. -/
  | reservedE
  /-- 0xF, R276. -/
  | reservedF
  /-- Every word with a bit of [31:4] set, whatever OPCODE (R112): `high` is bits [31:4], `opcode` bits [3:0]. -/
  | reservedHigh (high : BitVec 28) (opcode : BitVec 4)
  deriving DecidableEq, Repr

/-- The direction of a host transaction; a write carries its data in the low bits of a word (log entry 12). -/
inductive BusOp where
  | read
  | write (value : Word)
  deriving DecidableEq, Repr

/-- One host bus transaction (R85, R122): direction, width in bits, system address. -/
structure Txn where
  op : BusOp
  width : Nat
  addr : Nat
  deriving DecidableEq, Repr

/-- An event of the total order of host transactions and sequencer steps (R89, R317). -/
inductive Event where
  /-- The host issues a transaction. -/
  | bus (t : Txn)
  /-- The sequencer takes its next step, if it has one (R206). -/
  | turn
  /-- The platform asserts the reset input (R350). -/
  | hwReset
  deriving DecidableEq, Repr

end Sys2Proof
end

