-- ==== Sys2Proof/Decode.lean ====
section
/-! DEFINITION. The command word (spec/30_encoding.md R110 to R113): the decoder, total on every word and on any bytes,
the encoder, and what a command latches into OP (spec/44_commands.md R270). The host bus is little-endian (R83). -/

namespace Sys2Proof

/-- Why a string of bytes is no command word: R110 has one length, 32 bits. -/
inductive DecodeError where
  /-- Fewer than the four bytes of a command word. -/
  | truncated
  deriving DecidableEq, Repr

/-- The command a word with `[31:4] = 0` stands for (R111). -/
def decodeOpcode (opcode : BitVec 4) : Instr :=
  match opcode.toNat with
  | 0 => .nop
  | 1 => .encrypt
  | 2 => .decrypt
  | 3 => .primEnc
  | 4 => .primDec
  | 5 => .primPerm
  | 6 => .zeroize
  | 7 => .reservedHash
  | 8 => .reserved8
  | 9 => .reserved9
  | 10 => .reservedA
  | 11 => .reservedB
  | 12 => .reservedC
  | 13 => .reservedD
  | 14 => .reservedE
  | _ => .reservedF

/-- The command a word stands for; total (R113). -/
def decode (w : Word) : Instr :=
  if w.extractLsb' 4 28 = 0#28 then decodeOpcode (w.extractLsb' 0 4)
  else .reservedHigh (w.extractLsb' 4 28) (w.extractLsb' 0 4)

/-- The OPCODE of a command whose bits [31:4] are 0 (R111); for `reservedHigh` its own bits [3:0]. -/
def Instr.opcode : Instr → BitVec 4
  | .nop => 0x0#4
  | .encrypt => 0x1#4
  | .decrypt => 0x2#4
  | .primEnc => 0x3#4
  | .primDec => 0x4#4
  | .primPerm => 0x5#4
  | .zeroize => 0x6#4
  | .reservedHash => 0x7#4
  | .reserved8 => 0x8#4
  | .reserved9 => 0x9#4
  | .reservedA => 0xA#4
  | .reservedB => 0xB#4
  | .reservedC => 0xC#4
  | .reservedD => 0xD#4
  | .reservedE => 0xE#4
  | .reservedF => 0xF#4
  | .reservedHigh _ opcode => opcode

/-- Bits [31:4] of a command's word (R110, R112). -/
def Instr.high : Instr → BitVec 28
  | .reservedHigh high _ => high
  | _ => 0#28

/-- The word of a command (R110). -/
def encode (i : Instr) : Word := i.high ++ i.opcode

/-- What a command word latches into OP (R270, 10_state.md R66): its OPCODE, or 0xF when a bit of [31:4] is set. -/
def opLatch (w : Word) : BitVec 4 :=
  if w.extractLsb' 4 28 = 0#28 then w.extractLsb' 0 4 else 0xF#4

/-- Whether an encoding is reserved (R111, R112). -/
def Instr.isReserved : Instr → Bool
  | .nop => false
  | .encrypt => false
  | .decrypt => false
  | .primEnc => false
  | .primDec => false
  | .primPerm => false
  | .zeroize => false
  | .reservedHash => true
  | .reserved8 => true
  | .reserved9 => true
  | .reservedA => true
  | .reservedB => true
  | .reservedC => true
  | .reservedD => true
  | .reservedE => true
  | .reservedF => true
  | .reservedHigh _ _ => true

/-- What a command latches into OP (R270). -/
def Instr.latch (i : Instr) : BitVec 4 := if i.high = 0#28 then i.opcode else 0xF#4

/-- The command that runs while OP holds a value: none for 0, the clear that follows reset (R66, R232). OP = 0xF
stands for 0x0000000F and for every word with a bit of [31:4] set, whose steps are the same (R206, R276). -/
def runningInstr (op : BitVec 4) : Option Instr :=
  if op = 0#4 then none else some (decodeOpcode op)

/-- A word from its bytes, the first at the lowest address (R83). -/
def wordOfBytes (b0 b1 b2 b3 : Byte) : Word := b3 ++ b2 ++ b1 ++ b0

/-- The bytes of a word, the first at the lowest address (R83). -/
def bytesOfWord (w : Word) : Bytes :=
  [w.extractLsb' 0 8, w.extractLsb' 8 8, w.extractLsb' 16 8, w.extractLsb' 24 8]

/-- A command from bytes, with the bytes that are left. -/
def decodeBytes : Bytes → Except DecodeError (Instr × Bytes)
  | b0 :: b1 :: b2 :: b3 :: rest => .ok (decode (wordOfBytes b0 b1 b2 b3), rest)
  | _ => .error .truncated

/-- The bytes of a command. -/
def encodeBytes (i : Instr) : Bytes := bytesOfWord (encode i)

/-- The table's instruction bits as the word they are: `w` cut to `nbits` bits, every bit above them 0. -/
def tableWord (nbits w : Nat) : Word := BitVec.ofNat 32 (w % 2 ^ nbits)

/-- The command the decoder reads from the table's instruction bits `w`. -/
def decodeTableWord (nbits w : Nat) : Option Instr :=
  match decodeBytes (bytesOfWord (tableWord nbits w)) with
  | .ok (i, _) => some i
  | .error _ => none

end Sys2Proof
end

