-- ==== Sys2Proof/Config.lean ====
section
/-! DEFINITION. What fixes an ADE instance (spec/00_scope.md R9, R10): the records of the profile and primitive ROMs
(spec/10_state.md R72, spec/42_engine.md R201, spec/40_primitive.md R140), the parameters of the instance, the
values the spec itself fixes, the defaults it names, and the free values: constants with no body, of which nothing
can be evaluated or proved. -/

namespace Sys2Proof

/-- A family's word packing, a constant of its profile (R84, R201). -/
inductive Endian where
  | le
  | be
  deriving DecidableEq, Repr

/-- The three padding forms (spec/41_padding.md R172). -/
inductive PadMode where
  | marker80
  | lengthByte
  | laneXor
  deriving DecidableEq, Repr

/-- The eight domain classes (R170). -/
inductive DomClass where
  | adNonfinal
  | adFinalFull
  | adFinalPartial
  | adEmpty
  | msgNonfinal
  | msgFinalFull
  | msgFinalPartial
  | msgEmpty
  deriving DecidableEq, Repr

/-- The eight domain constants of a profile, one byte per class (R170). -/
structure DomConstants where
  adNonfinal : Byte
  adFinalFull : Byte
  adFinalPartial : Byte
  adEmpty : Byte
  msgNonfinal : Byte
  msgFinalFull : Byte
  msgFinalPartial : Byte
  msgEmpty : Byte
  deriving DecidableEq, Repr

/-- The plain-data fields of a family profile in the profile ROM (R201), with its id (R116). Its five functions are
TOY's (R203) for id 0x7F and the free functions below for every other id (log entry 7). -/
structure Profile where
  id : Byte
  keyLen : Nat
  nonceLen : Nat
  tagLen : Nat
  unitAd : Nat
  unitMsg : Nat
  stateBytes : Nat
  endian : Endian
  padMode : PadMode
  dom : DomConstants
  maxAd : Option Nat
  maxMsg : Option Nat
  deriving DecidableEq, Repr

/-- The two kinds of primitive (R140). -/
inductive PrimKind where
  | blockCipher
  | permutation
  deriving DecidableEq, Repr

/-- The plain-data fields of a primitive descriptor in the primitive ROM (R140), with its id (R117). -/
structure PrimDesc where
  id : Byte
  kind : PrimKind
  blockBytes : Nat
  keyBytes : Nat
  hasDec : Bool
  maxRounds : Nat
  defaultRounds : Nat
  deriving DecidableEq, Repr

/-- The parameters of the instance (R9, R81, R318) and its two ROMs (R72). No step changes them (R10). -/
structure Params where
  /-- `BUF_SIZE`. -/
  bufSize : Nat
  /-- `S_MAX`. -/
  sMax : Nat
  /-- `ADE_BASE`. -/
  adeBase : Nat
  /-- `ADE_IRQ_LINE`. -/
  adeIrqLine : Nat
  /-- The profile ROM: `FAMILIES` is the set of its ids. -/
  families : List Profile
  /-- The primitive ROM: `PRIMS` is the set of its ids. -/
  prims : List PrimDesc
  deriving DecidableEq, Repr

namespace Config

/-- `KEY_MAX`, `NONCE_MAX`, `TAG_MAX` (R9): the bytes of each latch. -/
abbrev latchBytes : Nat := 32

/-- `UNIT_MAX` (R9). -/
abbrev unitMax : Nat := 128

/-- `PBLK_MAX` (R9). -/
abbrev pblkMax : Nat := 64

/-- The id of the test profile TOY (R116) and of the test primitive TOYF (R117). -/
abbrev toyId : Byte := 0x7F#8

/-- The id of SKINNY-128-128 (R117). -/
abbrev skinnyId : Byte := 0x01#8

/-- TOY's profile record (R203). -/
def toyProfile : Profile :=
  { id := toyId
    keyLen := 4
    nonceLen := 4
    tagLen := 4
    unitAd := 4
    unitMsg := 4
    stateBytes := 8
    endian := .le
    padMode := .marker80
    dom :=
      { adNonfinal := 0x10#8
        adFinalFull := 0x11#8
        adFinalPartial := 0x12#8
        adEmpty := 0x13#8
        msgNonfinal := 0x20#8
        msgFinalFull := 0x21#8
        msgFinalPartial := 0x22#8
        msgEmpty := 0x23#8 }
    maxAd := some 64
    maxMsg := some 64 }

/-- TOYF's descriptor (R146). -/
def toyfDesc : PrimDesc :=
  { id := toyId
    kind := .permutation
    blockBytes := 8
    keyBytes := 0
    hasDec := false
    maxRounds := 8
    defaultRounds := 1 }

/-- SKINNY-128-128's descriptor when the instance has it (R147). -/
def skinnyDesc : PrimDesc :=
  { id := skinnyId
    kind := .blockCipher
    blockBytes := 16
    keyBytes := 16
    hasDec := true
    maxRounds := 40
    defaultRounds := 40 }

/-- The lengths the source's table fixes for ids 0x01 to 0x06 (R204):
`(keyLen, nonceLen, tagLen, unitAd, unitMsg)`. -/
def sourceLengths (id : Nat) : Option (Nat × Nat × Nat × Nat × Nat) :=
  match id with
  | 1 => some (32, 8, 16, 64, 64)
  | 2 => some (16, 16, 16, 8, 8)
  | 3 => some (16, 16, 16, 16, 16)
  | 4 => some (16, 16, 16, 16, 16)
  | 5 => some (16, 16, 16, 44, 24)
  | 6 => some (32, 16, 32, 32, 32)
  | _ => none

/-- The instance State.reset describes: the defaults of R9, and base and line 0.
DESIGN CHOICE (log entry 4), unsafe: R9 leaves these OPEN and only names the defaults. Every statement about an
arbitrary state is about an arbitrary instance. -/
def defaultParams : Params :=
  { bufSize := 8192
    sMax := 256
    adeBase := 0
    adeIrqLine := 0
    families := [toyProfile]
    prims := [toyfDesc] }

/-! The free values. Each stands for a function the spec leaves OPEN (R8 (b), (c), R201, R140; spec/
93_implementation_defined.md U5, U6): the model takes it as a parameter and knows nothing of it.
DESIGN CHOICE of the form only (log entries 6 to 8), safe: a statement about a free value holds for every value. -/

/-- A family's `init` (R201): profile, key, nonce. -/
opaque familyInit : Profile → Bytes → Bytes → Bytes

/-- A family's `absorb` (R201): profile, state, padded block, byte count, domain byte. -/
opaque familyAbsorb : Profile → Bytes → Bytes → Nat → Byte → Bytes

/-- A family's `encBlock` (R201): profile, state, padded block, byte count, domain byte. -/
opaque familyEncBlock : Profile → Bytes → Bytes → Nat → Byte → Bytes × Bytes

/-- A family's `decBlock` (R201): profile, state, ciphertext bytes, byte count, domain byte. -/
opaque familyDecBlock : Profile → Bytes → Bytes → Nat → Byte → Bytes × Bytes

/-- A family's `finalize` (R201): profile, state, key, nonce. -/
opaque familyFinalize : Profile → Bytes → Bytes → Bytes → Bytes

/-- The block permutation of a primitive that can decrypt, at a legal round pair (R140): descriptor, key, round count,
starting round. `enc` is the permutation and `dec` its inverse. Two functions on blocks of one length meet law PRIM-INV
(R142) exactly where they are such a pair, so this assumes that law and nothing else (log entry 8). -/
opaque primCipher (D : PrimDesc) (key : Bytes) (rounds start : Nat) : Equiv.Perm (Fin D.blockBytes → Byte)

/-- A primitive's `enc` where law PRIM-INV says nothing (R142): descriptor, key, round count, starting round, block. -/
opaque primEncrypt : PrimDesc → Bytes → Nat → Nat → Bytes → Bytes

/-- A primitive's `dec` where law PRIM-INV says nothing; no step that passed its check calls it (R150). -/
opaque primDecrypt : PrimDesc → Bytes → Nat → Nat → Bytes → Bytes

/-- A primitive's `perm` (R140): descriptor, round count, starting round, state. -/
opaque primPermute : PrimDesc → Nat → Nat → Bytes → Bytes

/-- BUF byte `a` between the `k`-th reset and its buffer clear (R350: unspecified; U8: any value). -/
opaque unspecifiedByte : Nat → Nat → Byte

end Config

end Sys2Proof
end

