-- ==== Sys2Proof/Machine/State.lean ====
section
/-! DEFINITION. The architectural state of the ADE as plain data (spec/10_state.md), the reasons a step can stop, and
the state right after hardware reset (R76, spec/70_reset_and_hazards.md R350). -/

namespace Sys2Proof.Machine

/-- STATUS.PHASE (spec/30_encoding.md R115): the sequencer's position (R70). -/
inductive Phase where
  | idle
  | check
  | init
  | ad
  | msg
  | final
  | verify
  | scrub
  | wipe
  | prim
  | bufclr
  deriving DecidableEq, Repr

/-- STATUS.RESULT (R114). -/
inductive Result where
  | ok
  | invalidParameters
  | authenticationFailure
  deriving DecidableEq, Repr

/-- ERR.DETAIL (R118), in the order of its codes 0 to 13. -/
inductive Detail where
  | none
  | badOpcode
  | badFamily
  | badKeyLen
  | badNonceLen
  | shortInput
  | adTooLong
  | msgTooLong
  | bounds
  | overlap
  | badPrim
  | badRounds
  | badBlockLen
  | tagMismatch
  deriving DecidableEq, Repr

/-- What the last host transaction returned to the host: the model's own (log entry 11). -/
inductive BusResponse where
  | none
  | written
  | data (value : Word)
  deriving DecidableEq, Repr

/-- The contents of BUF (spec/20_memory.md R82): `(offset, byte)` pairs, offsets strictly rising, no byte that an
unlisted offset reads as. An unlisted offset reads 0, what the reset buffer clear leaves (R232; log entry 5). -/
abbrev Mem := List Host.Cell

/-- The state of one ADE instance. The docstrings name the rule of spec/10_state.md that gives each piece. -/
structure State where
  /-- The parameters of the instance and its two ROMs: R72, R49, 00_scope.md R9. No step changes them. -/
  params : Params
  /-- CTRL.IE, R33. -/
  ie : Bool
  /-- STATUS.BUSY, R35. -/
  busy : Bool
  /-- STATUS.DONE, R35. -/
  done : Bool
  /-- STATUS.RESULT, R35. -/
  result : Result
  /-- STATUS.PHASE, R35. -/
  phase : Phase
  /-- STATUS.HOSTERR, R35. -/
  hostErr : Bool
  /-- ERR.DETAIL, R48. -/
  detail : Detail
  /-- FAMILY, R36. -/
  family : Byte
  /-- KEYLEN, R37. -/
  keyLen : Byte
  /-- NONCELEN, R38. -/
  nonceLen : Byte
  /-- KEY_PTR, R39. -/
  keyPtr : Word
  /-- NONCE_PTR, R40. -/
  noncePtr : Word
  /-- AD_PTR, R41. -/
  adPtr : Word
  /-- AD_LEN, R42. -/
  adLen : Word
  /-- IN_PTR, R43. -/
  inPtr : Word
  /-- IN_LEN, R44. -/
  inLen : Word
  /-- OUT_PTR, R45. -/
  outPtr : Word
  /-- PRIM_CFG.PSEL, R46. -/
  psel : Byte
  /-- PRIM_CFG.ROUNDS, R46. -/
  rounds : Byte
  /-- PRIM_CFG.START, R46. -/
  start : Byte
  /-- OUT_LEN, R47. -/
  outLen : Word
  /-- ST, R60: `S_MAX` bytes. -/
  st : Bytes
  /-- KL, R61: 32 bytes. -/
  kl : Bytes
  /-- NL, R62: 32 bytes. -/
  nl : Bytes
  /-- TC, R63: 32 bytes. -/
  tc : Bytes
  /-- TS, R64: 32 bytes. -/
  ts : Bytes
  /-- MASK, R65. -/
  mask : Byte
  /-- OP, R66. -/
  op : BitVec 4
  /-- ADOFF, R67. -/
  adOff : Word
  /-- MOFF, R68. -/
  mOff : Word
  /-- MLEN, R69. -/
  mLen : Word
  /-- BUF, R74. -/
  buf : Mem
  /-- The model's own (log entry 1): the events still to happen, oldest first. -/
  agenda : List Event
  /-- The model's own (log entry 11): what the last host transaction returned. -/
  response : BusResponse
  /-- The model's own (log entry 6): how many unspecified BUF contents have been drawn. -/
  freeCount : Nat
  deriving DecidableEq, Repr

/-- Why the machine stops. -/
inductive Fault where
  /-- Raised by the step of a host transaction that gets a bus error response (spec/20_memory.md R86;
  spec/60_exceptions.md R328 calls it a fault of the host program at that transaction). Safe: the ADE changes nothing. -/
  | busErr
  /-- Raised where BUSY = 1 and (PHASE, OP) is none of the pairs of spec/42_engine.md R206, which says that no such
  pair is reachable. Safe: the hardware has no such state. -/
  | noSequencerStep
  /-- Raised where a step after CHECK finds FAMILY outside `FAMILIES`, which CHECK has excluded (R207). Safe. -/
  | noProfile
  /-- Raised where a PRIM step finds PSEL outside `PRIMS`, which CHECK has excluded (spec/40_primitive.md R150). Safe. -/
  | noPrimitive
  /-- Raised where a step names BUF bytes at or above `BUF_SIZE`, where `MemRead` and `MemWrite` are not defined
  (spec/00_scope.md R14) and which CHECK has excluded (R91). Safe. -/
  | outsideBuf
  deriving DecidableEq, Repr

/-- Why the model has no meaning. Raised by no arm of this model. -/
inductive Refusal where
  /-- An instruction whose meaning is not written. Safe. -/
  | notModelled (mnemonic : String)
  deriving DecidableEq, Repr

/-- The state right after hardware reset (R76, R350), of the instance with the spec's default parameters (log entry
4): STATUS = 0x000000A1, so the reset buffer clear is the next sequencer step; BUF lists nothing (log entry 5). -/
def State.reset : State :=
  { params := Config.defaultParams
    ie := false
    busy := true
    done := false
    result := .ok
    phase := .bufclr
    hostErr := false
    detail := .none
    family := 0#8
    keyLen := 0#8
    nonceLen := 0#8
    keyPtr := 0#32
    noncePtr := 0#32
    adPtr := 0#32
    adLen := 0#32
    inPtr := 0#32
    inLen := 0#32
    outPtr := 0#32
    psel := 0#8
    rounds := 0#8
    start := 0#8
    outLen := 0#32
    st := zeros Config.defaultParams.sMax
    kl := zeros Config.latchBytes
    nl := zeros Config.latchBytes
    tc := zeros Config.latchBytes
    ts := zeros Config.latchBytes
    mask := 0#8
    op := 0#4
    adOff := 0#32
    mOff := 0#32
    mLen := 0#32
    buf := []
    agenda := []
    response := .none
    freeCount := 0 }

end Sys2Proof.Machine
end

