-- ==== Sys2Proof/Machine/Ops.lean ====
section
/-! DEFINITION. The named operations over BUF and the registers: byte strings and their word packing (spec/00_scope.md
R12, R16), BUF (R14), the acceptance of a command (spec/44_commands.md R270), the parameter-failure path
(spec/60_exceptions.md R313), completion (spec/42_engine.md R230), the buffer clear (R232) and reset
(spec/70_reset_and_hazards.md R350, R351). -/

namespace Sys2Proof.Machine

/-- The outcome of a step of the machine. -/
abbrev Out := Host.Outcome State Fault Refusal

/-! Byte strings. -/

/-- `b` as a string of exactly `n` bytes: cut after `n`, or followed by zeros. It is `b ‖ 0^(n - len b)` where
`len b <= n`, the form of R208, R210 and R220, and it gives a free function's result the length its type has. -/
def fit (n : Nat) (b : Bytes) : Bytes := b.take n ++ zeros (n - b.length)

/-- The bytewise exclusive or (R12). -/
def xorBytes (a b : Bytes) : Bytes := List.zipWith (fun x y => x ^^^ y) a b

/-- `loadWord` in little-endian order (R16): `sum_i b[i] * 2^(8i)`. -/
def loadLE : Bytes → Nat
  | [] => 0
  | b :: bs => b.toNat + 256 * loadLE bs

/-- `storeWord` in little-endian order (R16), `n` bytes. -/
def storeLE : Nat → Nat → Bytes
  | 0, _ => []
  | n + 1, v => BitVec.ofNat 8 v :: storeLE n (v / 256)

/-- `loadWord_w(b, e)` (R16), for a word of `8 * len b` bits. -/
def loadWord (e : Endian) (b : Bytes) : Nat :=
  match e with
  | .le => loadLE b
  | .be => loadLE b.reverse

/-- `storeWord_w(v, e)` (R16), for `w = 8 * n`. -/
def storeWord (e : Endian) (n v : Nat) : Bytes :=
  match e with
  | .le => storeLE n v
  | .be => (storeLE n v).reverse

/-! BUF. -/

/-- BUF byte `a`; an unlisted one reads 0 (log entry 5). -/
def Mem.read : Mem → Nat → Byte
  | [], _ => 0#8
  | (k, v) :: m, a => if a = k then v else Mem.read m a

/-- BUF with byte `a` set to `v`, in canonical form again. -/
def Mem.write : Mem → Nat → Byte → Mem
  | [], a, v => if v = 0#8 then [] else [(a, v)]
  | (k, x) :: m, a, v =>
    if a < k then (if v = 0#8 then (k, x) :: m else (a, v) :: (k, x) :: m)
    else if a = k then (if v = 0#8 then m else (a, v) :: m)
    else (k, x) :: Mem.write m a v

/-- No offset of `m` is `a` or below, and the canonical form holds: offsets strictly rising, no byte 0. -/
def Mem.wfAbove : Mem → Nat → Bool
  | [], _ => true
  | (k, v) :: m, a => decide (a ≤ k) && v != 0#8 && Mem.wfAbove m (k + 1)

/-- The canonical form of BUF: offsets strictly rising, no byte that an unlisted offset reads as. -/
def Mem.wf (m : Mem) : Bool := Mem.wfAbove m 0

/-- The `n` bytes of BUF from `a` (R14). -/
def Mem.readBytes (m : Mem) (a : Nat) : Nat → Bytes
  | 0 => []
  | n + 1 => Mem.read m a :: Mem.readBytes m (a + 1) n

/-- BUF with the bytes of a string written from `a`, in increasing offset (R14). -/
def Mem.writeBytes (m : Mem) (a : Nat) : Bytes → Mem
  | [] => m
  | v :: vs => Mem.writeBytes (Mem.write m a v) (a + 1) vs

/-- BUF with bytes 0 to `n - 1` set by a function of the offset. -/
def Mem.fill (m : Mem) (f : Nat → Byte) : Nat → Mem
  | 0 => m
  | n + 1 => Mem.write (Mem.fill m f n) n (f n)

/-- Whether `MemRead` and `MemWrite` are defined for `n` bytes at `a`: `a + n <= BUF_SIZE` or `n = 0` (R14). -/
abbrev inBuf (s : State) (a n : Nat) : Prop := n = 0 ∨ a + n ≤ s.params.bufSize

/-- `MemRead(a, n)` (R14). -/
def memRead (s : State) (a n : Nat) : Option Bytes :=
  if inBuf s a n then some (s.buf.readBytes a n) else none

/-- `MemWrite(a, len v, v)` (R14): the new contents of BUF. -/
def memWrite (s : State) (a : Nat) (v : Bytes) : Option Mem :=
  if inBuf s a v.length then some (s.buf.writeBytes a v) else none

/-! Commands. -/

/-- A CMD write accepted while BUSY = 0 (R270), with the value it latches into OP. -/
def acceptCommand (op : BitVec 4) (s : State) : State :=
  { s with
    op := op
    busy := true
    done := false
    result := .ok
    detail := .none
    outLen := 0#32
    phase := .check }

/-- A host transaction that the busy rule drops (R88, R271): only HOSTERR changes. -/
def dropTransaction (s : State) : State := { s with hostErr := true }

/-- `raise InvalidParameters(d)`: the parameter-failure path (R313). The ADE has no trap entry (R319); this is the one
shared operation by which a failing check ends. -/
def raiseInvalidParameters (d : Detail) (s : State) : State :=
  { s with
    result := .invalidParameters
    detail := d
    outLen := 0#32
    phase := .wipe }

/-- Every internal register 0 (R230, R76). -/
def clearInternals (s : State) : State :=
  { s with
    st := zeros s.params.sMax
    kl := zeros Config.latchBytes
    nl := zeros Config.latchBytes
    tc := zeros Config.latchBytes
    ts := zeros Config.latchBytes
    mask := 0#8
    op := 0#4
    adOff := 0#32
    mOff := 0#32
    mLen := 0#32 }

/-- The WIPE step (R230), by which every command completes (R277). -/
def wipe (s : State) : State :=
  { clearInternals s with
    busy := false
    done := true
    phase := .idle }

/-- The BUFCLR step of ZEROIZE (R232). -/
def zeroizeBuf (s : State) : State :=
  { s with
    buf := []
    outLen := 0#32
    result := .ok
    detail := .none
    phase := .wipe }

/-- The BUFCLR step that follows reset (R232): DONE stays as it is. -/
def resetClear (s : State) : State :=
  { s with
    buf := []
    busy := false
    phase := .idle }

/-- A sequencer step while OP = 0 (R206): the reset buffer clear, or a WIPE, whose row of R206 names any OP. -/
def resetTurn (s : State) : Out :=
  match s.phase with
  | .bufclr => .next (resetClear s)
  | .wipe => .next (wipe s)
  | .idle => .fault .noSequencerStep
  | .check => .fault .noSequencerStep
  | .init => .fault .noSequencerStep
  | .ad => .fault .noSequencerStep
  | .msg => .fault .noSequencerStep
  | .final => .fault .noSequencerStep
  | .verify => .fault .noSequencerStep
  | .scrub => .fault .noSequencerStep
  | .prim => .fault .noSequencerStep

/-! Reset. -/

/-- BUF at the instant of a reset: unspecified (R350, U8), so free values (log entry 6). -/
def unspecifiedBuf (k size : Nat) : Mem := Mem.fill [] (Config.unspecifiedByte k) size

/-- The state change of a reset (R350): every register to its reset value (R76), BUSY = 1 and PHASE = BUFCLR, BUF
unspecified. The instance, the pending events and the last response are not the ADE's to reset (log entry 18). -/
def resetState (s : State) : State :=
  { clearInternals s with
    ie := false
    busy := true
    done := false
    result := .ok
    phase := .bufclr
    hostErr := false
    detail := .none
    family := 0#8
    keyLen := 0#8
    nonceLen := 0#8
    keyPtr := 0#32
    noncePtr := 0#32
    adPtr := 0#32
    adLen := 0#32
    inPtr := 0#32
    inLen := 0#32
    outPtr := 0#32
    psel := 0#8
    rounds := 0#8
    start := 0#8
    outLen := 0#32
    buf := unspecifiedBuf s.freeCount s.params.bufSize
    freeCount := s.freeCount + 1 }

end Sys2Proof.Machine
end

