-- ==== Sys2Proof/Machine/Operands.lean ====
section
/-! DEFINITION. The operands of the commands (spec/30_encoding.md R119, R120): the ROM records FAMILY and PSEL select, the
regions of BUF a command touches, and the parameter checks of ENCRYPT and DECRYPT (spec/42_engine.md R207) and of the
raw primitive commands (spec/40_primitive.md R150). All sums are naturals: no wrap-around. -/

namespace Sys2Proof.Machine

/-- Which of ENCRYPT and DECRYPT a shared step serves. -/
inductive Dir where
  | enc
  | dec
  deriving DecidableEq, Repr

/-- Which of the raw primitive commands a shared step serves. -/
inductive PrimOp where
  | enc
  | dec
  | perm
  deriving DecidableEq, Repr

/-- `PROFILE(f)`, none for `f` outside `FAMILIES` (R4, R72). -/
def lookupProfile (p : Params) (f : Byte) : Option Profile := p.families.find? (fun P => P.id == f)

/-- `PRIMDESC(p)`, none for an id outside `PRIMS` (R4, R72). -/
def lookupPrim (p : Params) (id : Byte) : Option PrimDesc := p.prims.find? (fun D => D.id == id)

/-- The profile FAMILY selects. -/
def profileOf (s : State) : Option Profile := lookupProfile s.params s.family

/-- The descriptor PRIM_CFG.PSEL selects. -/
def primOf (s : State) : Option PrimDesc := lookupPrim s.params s.psel

/-- Whether a region of BUF fails the bounds check: not empty, and past `BUF_SIZE` (R207). -/
def regionOutside (s : State) (ptr : Word) (len : Nat) : Bool :=
  decide (0 < len ∧ s.params.bufSize < ptr.toNat + len)

/-- The message length of ENCRYPT or DECRYPT (R69, R207), once IN_LEN is known to reach `tagLen` for DECRYPT. -/
def messageLen (d : Dir) (P : Profile) (s : State) : Nat :=
  match d with
  | .enc => s.inLen.toNat
  | .dec => s.inLen.toNat - P.tagLen

/-- The output length of ENCRYPT or DECRYPT (R207, R120). -/
def outputLen (d : Dir) (P : Profile) (s : State) : Nat :=
  match d with
  | .enc => messageLen d P s + P.tagLen
  | .dec => messageLen d P s

/-- The five regions of R207, in its order. -/
def aeadRegions (d : Dir) (P : Profile) (s : State) : List (Word × Nat) :=
  [(s.keyPtr, P.keyLen), (s.noncePtr, P.nonceLen), (s.adPtr, s.adLen.toNat), (s.inPtr, s.inLen.toNat),
   (s.outPtr, outputLen d P s)]

/-- Whether the message payloads overlap and are not identical (R207). -/
def payloadsOverlap (s : State) (m : Nat) : Bool :=
  decide (0 < m ∧ s.inPtr ≠ s.outPtr ∧ s.inPtr.toNat < s.outPtr.toNat + m ∧ s.outPtr.toNat < s.inPtr.toNat + m)

/-- A length above a ceiling; no ceiling is never exceeded (R201, R207). -/
def exceeds (len : Nat) : Option Nat → Bool
  | none => false
  | some ceiling => decide (ceiling < len)

/-- The checks of ENCRYPT and DECRYPT in their order (R207, R316): the first failing check's code, or the profile. -/
def aeadCheck (d : Dir) (s : State) : Except Detail Profile :=
  match profileOf s with
  | none => .error .badFamily
  | some P =>
    if s.keyLen.toNat ≠ P.keyLen then .error .badKeyLen
    else if s.nonceLen.toNat ≠ P.nonceLen then .error .badNonceLen
    else if d = .dec ∧ s.inLen.toNat < P.tagLen then .error .shortInput
    else if exceeds s.adLen.toNat P.maxAd then .error .adTooLong
    else if exceeds (messageLen d P s) P.maxMsg then .error .msgTooLong
    else if (aeadRegions d P s).any (fun r => regionOutside s r.1 r.2) then .error .bounds
    else if payloadsOverlap s (messageLen d P s) then .error .overlap
    else .ok P

/-- The round count of a raw call (R144): ROUNDS, or the default for 0. -/
def roundCount (D : PrimDesc) (s : State) : Nat :=
  if s.rounds = 0#8 then D.defaultRounds else s.rounds.toNat

/-- The legal round pairs (R144). -/
def legalRounds (D : PrimDesc) (r start : Nat) : Bool := decide (1 ≤ r) && decide (start + r ≤ D.maxRounds)

/-- Whether the primitive has what the command asks for (R150). -/
def primFits (o : PrimOp) (D : PrimDesc) : Bool :=
  match o with
  | .enc => D.kind == .blockCipher
  | .dec => D.kind == .blockCipher && D.hasDec
  | .perm => D.kind == .permutation

/-- The checks of the raw primitive commands in their order (R150, R316): the first failing check's code, or the
descriptor. KEYLEN and KEY_PTR are ignored by PRIM_PERM. -/
def primCheck (o : PrimOp) (s : State) : Except Detail PrimDesc :=
  match primOf s with
  | none => .error .badPrim
  | some D =>
    if primFits o D = false then .error .badPrim
    else if legalRounds D (roundCount D s) s.start.toNat = false then .error .badRounds
    else if o ≠ .perm ∧ s.keyLen.toNat ≠ D.keyBytes then .error .badKeyLen
    else if s.inLen.toNat ≠ D.blockBytes then .error .badBlockLen
    else if o ≠ .perm ∧ regionOutside s s.keyPtr D.keyBytes then .error .bounds
    else if s.params.bufSize < s.inPtr.toNat + D.blockBytes then .error .bounds
    else if s.params.bufSize < s.outPtr.toNat + D.blockBytes then .error .bounds
    else .ok D

end Sys2Proof.Machine
end

