-- ==== Sys2Proof/Machine/Padding.lean ====
section
/-! DEFINITION. The domain-separation padding inserter (spec/41_padding.md): a pure function of lengths and data. -/

namespace Sys2Proof.Machine

/-- The two phases whose blocks are classified (R174). -/
inductive PadPhase where
  | ad
  | msg
  deriving DecidableEq, Repr

/-- `P.dom(c)` (R170). -/
def domByte (P : Profile) : DomClass → Byte
  | .adNonfinal => P.dom.adNonfinal
  | .adFinalFull => P.dom.adFinalFull
  | .adFinalPartial => P.dom.adFinalPartial
  | .adEmpty => P.dom.adEmpty
  | .msgNonfinal => P.dom.msgNonfinal
  | .msgFinalFull => P.dom.msgFinalFull
  | .msgFinalPartial => P.dom.msgFinalPartial
  | .msgEmpty => P.dom.msgEmpty

/-- `Pad(x, len x, u, mode)` (R172), for `len x <= u`. -/
def pad (x : Bytes) (u : Nat) (mode : PadMode) : Bytes :=
  if x.length = u then x
  else
    match mode with
    | .marker80 => x ++ 0x80#8 :: zeros (u - x.length - 1)
    | .lengthByte => x ++ zeros (u - x.length - 1) ++ [BitVec.ofNat 8 x.length]
    | .laneXor => x ++ zeros (u - x.length)

/-- `ph_EMPTY` (R174). -/
def emptyClass : PadPhase → DomClass
  | .ad => .adEmpty
  | .msg => .msgEmpty

/-- `ph_NONFINAL` (R174). -/
def nonfinalClass : PadPhase → DomClass
  | .ad => .adNonfinal
  | .msg => .msgNonfinal

/-- `ph_FINAL_FULL` (R174). -/
def finalFullClass : PadPhase → DomClass
  | .ad => .adFinalFull
  | .msg => .msgFinalFull

/-- `ph_FINAL_PARTIAL` (R174). -/
def finalPartialClass : PadPhase → DomClass
  | .ad => .adFinalPartial
  | .msg => .msgFinalPartial

/-- `Classify(L, off, u, ph)` (R174): the byte count of the next step and its class. -/
def classify (total off u : Nat) (ph : PadPhase) : Nat × DomClass :=
  if total = 0 then (0, emptyClass ph)
  else if u < total - off then (u, nonfinalClass ph)
  else if total - off = u then (u, finalFullClass ph)
  else (total - off, finalPartialClass ph)

end Sys2Proof.Machine
end

