-- ==== Sys2Proof/Machine/Toy.lean ====
section
/-! DEFINITION. The spec's test fixtures, present in every instance: the permutation TOYF (spec/40_primitive.md R146) and
the profile TOY (spec/42_engine.md R203). -/

namespace Sys2Proof.Machine

/-- Byte `i` of a string (R12). -/
def byteAt (b : Bytes) (i : Nat) : Byte := b.getD i 0#8

/-- Byte `i` of `F(s)` (R146). -/
def toyFByte (s : Bytes) (i : Nat) : Byte :=
  ((byteAt s ((i + 1) % 8)).rotateLeft 1 ^^^ byteAt s ((i + 3) % 8)) ^^^ BitVec.ofNat 8 (0x11 * (i + 1))

/-- TOYF's round function `F` (R146). -/
def toyF (s : Bytes) : Bytes :=
  [toyFByte s 0, toyFByte s 1, toyFByte s 2, toyFByte s 3, toyFByte s 4, toyFByte s 5, toyFByte s 6, toyFByte s 7]

/-- `F` applied `r` times: TOYF's `perm(r, S, s)` (R146). -/
def toyfPerm : Nat → Bytes → Bytes
  | 0, s => s
  | r + 1, s => toyfPerm r (toyF s)

/-- TOY's `Mix(S, B, d)` (R203). -/
def toyMix (S B : Bytes) (d : Byte) : Bytes :=
  toyF (xorBytes (S.take 4) B ++ (S.drop 4).take 3 ++ [byteAt S 7 ^^^ d])

/-- TOY's `init` (R203). -/
def toyInit (K N : Bytes) : Bytes := toyF (K ++ N)

/-- TOY's `absorb` (R203). -/
def toyAbsorb (S B : Bytes) (_n : Nat) (d : Byte) : Bytes := toyMix S B d

/-- TOY's `encBlock` (R203). -/
def toyEncBlock (S B : Bytes) (n : Nat) (d : Byte) : Bytes × Bytes :=
  (toyMix S B d, xorBytes (S.take n) (B.take n))

/-- TOY's `decBlock` (R203): it pads the recovered plaintext itself (R178). -/
def toyDecBlock (S y : Bytes) (n : Nat) (d : Byte) : Bytes × Bytes :=
  (toyMix S (pad (xorBytes (S.take n) y) 4 .marker80) d, xorBytes (S.take n) y)

/-- TOY's `finalize` (R203). -/
def toyFinalize (S K _N : Bytes) : Bytes :=
  (toyF (toyF (S.take 4 ++ xorBytes ((S.drop 4).take 4) K))).take 4

end Sys2Proof.Machine
end

