-- ==== Sys2Proof/Machine/Skinny.lean ====
section
/-! DEFINITION. The full SKINNY-128-128 block cipher, as spec/40_primitive.md R156 words it. PRESUMED (log entry 9):
R156 is informative, from general knowledge; R148's vector anchors it. The state of the cipher is a string of 16
bytes, byte `i` in row `i / 4`, column `i mod 4`. -/

namespace Sys2Proof.Machine

/-- A byte from its bits, most significant first. -/
def ofBits8 (b7 b6 b5 b4 b3 b2 b1 b0 : Bool) : Byte :=
  BitVec.ofNat 8
    (128 * b7.toNat + 64 * b6.toNat + 32 * b5.toNat + 16 * b4.toNat + 8 * b3.toNat + 4 * b2.toNat + 2 * b1.toNat
      + b0.toNat)

/-- The xor step of S8: `x4 <- x4 XOR NOT(x7 OR x6)`, `x0 <- x0 XOR NOT(x3 OR x2)`; its own inverse. -/
def sboxXor (x : Byte) : Byte :=
  ofBits8 (x.getLsbD 7) (x.getLsbD 6) (x.getLsbD 5) (x.getLsbD 4 ^^ !(x.getLsbD 7 || x.getLsbD 6))
    (x.getLsbD 3) (x.getLsbD 2) (x.getLsbD 1) (x.getLsbD 0 ^^ !(x.getLsbD 3 || x.getLsbD 2))

/-- The bit permutation of S8: `(x7,x6,x5,x4,x3,x2,x1,x0)` by `(x2,x1,x7,x6,x4,x0,x3,x5)`. -/
def sboxPerm (x : Byte) : Byte :=
  ofBits8 (x.getLsbD 2) (x.getLsbD 1) (x.getLsbD 7) (x.getLsbD 6) (x.getLsbD 4) (x.getLsbD 0) (x.getLsbD 3)
    (x.getLsbD 5)

/-- The inverse of `sboxPerm`. -/
def sboxPermInv (x : Byte) : Byte :=
  ofBits8 (x.getLsbD 5) (x.getLsbD 4) (x.getLsbD 0) (x.getLsbD 3) (x.getLsbD 1) (x.getLsbD 7) (x.getLsbD 6)
    (x.getLsbD 2)

/-- The swap of `x1` and `x2` at the end of S8; its own inverse. -/
def sboxSwap (x : Byte) : Byte :=
  ofBits8 (x.getLsbD 7) (x.getLsbD 6) (x.getLsbD 5) (x.getLsbD 4) (x.getLsbD 3) (x.getLsbD 1) (x.getLsbD 2)
    (x.getLsbD 0)

/-- The S-box S8. -/
def skinnySbox (x : Byte) : Byte :=
  sboxSwap (sboxXor (sboxPerm (sboxXor (sboxPerm (sboxXor (sboxPerm (sboxXor x)))))))

/-- The inverse of S8. -/
def skinnySboxInv (x : Byte) : Byte :=
  sboxXor (sboxPermInv (sboxXor (sboxPermInv (sboxXor (sboxPermInv (sboxXor (sboxSwap x)))))))

/-- The next 6-bit round constant: `rc <- ((rc << 1) mod 64) | (rc[5] XOR rc[4] XOR 1)`. -/
def skinnyNextRc (rc : BitVec 6) : BitVec 6 :=
  (rc <<< 1) ||| BitVec.ofNat 6 (rc.getLsbD 5 ^^ (rc.getLsbD 4 ^^ true)).toNat

/-- The bytes AddConstants adds for a round constant: bytes 0, 4 and 8 of the state. -/
def skinnyConstants (rc : BitVec 6) : Bytes :=
  [BitVec.ofNat 8 (rc.toNat % 16), 0#8, 0#8, 0#8, BitVec.ofNat 8 (rc.toNat / 16), 0#8, 0#8, 0#8,
   0x02#8, 0#8, 0#8, 0#8, 0#8, 0#8, 0#8, 0#8]

/-- The bytes AddRoundTweakey adds: the first eight of the tweakey. -/
def skinnyTweakeyBytes (tk : Bytes) : Bytes := tk.take 8 ++ zeros 8

/-- The bytes of a string at a list of indices. -/
def permuteBytes (idx : List Nat) (b : Bytes) : Bytes := idx.map (byteAt b)

/-- The tweakey permutation. -/
def skinnyTweakeyPerm (tk : Bytes) : Bytes :=
  permuteBytes [9, 15, 8, 13, 10, 14, 12, 11, 0, 1, 2, 3, 4, 5, 6, 7] tk

/-- ShiftRows. -/
def skinnyShiftRows (s : Bytes) : Bytes :=
  permuteBytes [0, 1, 2, 3, 7, 4, 5, 6, 10, 11, 8, 9, 13, 14, 15, 12] s

/-- The inverse of ShiftRows. -/
def skinnyShiftRowsInv (s : Bytes) : Bytes :=
  permuteBytes [0, 1, 2, 3, 5, 6, 7, 4, 10, 11, 8, 9, 15, 12, 13, 14] s

/-- MixColumns, row by row: `(a, b, d, e)` of a column becomes `(a ^ d ^ e, a, b ^ d, a ^ d)`. -/
def skinnyMixColumns (s : Bytes) : Bytes :=
  let a := s.take 4
  let b := (s.drop 4).take 4
  let d := (s.drop 8).take 4
  let e := (s.drop 12).take 4
  xorBytes (xorBytes a d) e ++ a ++ xorBytes b d ++ xorBytes a d

/-- The inverse of MixColumns: from rows `(p, q, r, t)` the rows `(q, q ^ r ^ t, q ^ t, p ^ t)`. -/
def skinnyMixColumnsInv (s : Bytes) : Bytes :=
  let p := s.take 4
  let q := (s.drop 4).take 4
  let r := (s.drop 8).take 4
  let t := (s.drop 12).take 4
  q ++ xorBytes (xorBytes q r) t ++ xorBytes q t ++ xorBytes p t

/-- One round on the state, with this round's constant and tweakey. -/
def skinnyRound (rc : BitVec 6) (tk s : Bytes) : Bytes :=
  skinnyMixColumns (skinnyShiftRows
    (xorBytes (xorBytes (s.map skinnySbox) (skinnyConstants rc)) (skinnyTweakeyBytes tk)))

/-- The inverse of one round. -/
def skinnyRoundInv (rc : BitVec 6) (tk s : Bytes) : Bytes :=
  (xorBytes (xorBytes (skinnyShiftRowsInv (skinnyMixColumnsInv s)) (skinnyTweakeyBytes tk))
    (skinnyConstants rc)).map skinnySboxInv

/-- `n` rounds after a round whose constant was `rc`, with tweakey `tk`. -/
def skinnyRounds : Nat → BitVec 6 → Bytes → Bytes → Bytes
  | 0, _, _, s => s
  | n + 1, rc, tk, s =>
    skinnyRounds n (skinnyNextRc rc) (skinnyTweakeyPerm tk) (skinnyRound (skinnyNextRc rc) tk s)

/-- The inverse of `skinnyRounds`. -/
def skinnyRoundsInv : Nat → BitVec 6 → Bytes → Bytes → Bytes
  | 0, _, _, s => s
  | n + 1, rc, tk, s =>
    skinnyRoundInv (skinnyNextRc rc) tk (skinnyRoundsInv n (skinnyNextRc rc) (skinnyTweakeyPerm tk) s)

/-- The full cipher's rounds (R147). -/
abbrev skinnyFullRounds : Nat := 40

/-- `enc(K, 40, 0, P)` (R156). -/
def skinnyEnc (key block : Bytes) : Bytes := skinnyRounds skinnyFullRounds 0#6 key block

/-- `dec(K, 40, 0, C)`: the inverse function (R156). -/
def skinnyDec (key block : Bytes) : Bytes := skinnyRoundsInv skinnyFullRounds 0#6 key block

end Sys2Proof.Machine
end

