-- ==== Sys2Proof/Machine/Family.lean ====
section
/-! DEFINITION. The functions of a family profile (spec/42_engine.md R201) and of a primitive descriptor
(spec/40_primitive.md R140, R141), as the sequencer and the wrapper call them: TOY, TOYF and the full SKINNY-128-128
where the spec defines them, a free function of the ROM record and the operands elsewhere (log entries 7, 8, 9). A
result has the length its type has. -/

namespace Sys2Proof.Machine

/-- `P.init(K, N)`. -/
def famInit (P : Profile) (K N : Bytes) : Bytes :=
  fit P.stateBytes (if P.id = Config.toyId then toyInit K N else Config.familyInit P K N)

/-- `P.absorb(S, B, n, d)`. -/
def famAbsorb (P : Profile) (S B : Bytes) (n : Nat) (d : Byte) : Bytes :=
  fit P.stateBytes (if P.id = Config.toyId then toyAbsorb S B n d else Config.familyAbsorb P S B n d)

/-- `P.encBlock(S, B, n, d)`: the new state and the `n` ciphertext bytes. -/
def famEncBlock (P : Profile) (S B : Bytes) (n : Nat) (d : Byte) : Bytes × Bytes :=
  let r := if P.id = Config.toyId then toyEncBlock S B n d else Config.familyEncBlock P S B n d
  (fit P.stateBytes r.1, fit n r.2)

/-- `P.decBlock(S, y, n, d)`: the new state and the `n` plaintext bytes. -/
def famDecBlock (P : Profile) (S y : Bytes) (n : Nat) (d : Byte) : Bytes × Bytes :=
  let r := if P.id = Config.toyId then toyDecBlock S y n d else Config.familyDecBlock P S y n d
  (fit P.stateBytes r.1, fit n r.2)

/-- `P.finalize(S, K, N)`. -/
def famFinalize (P : Profile) (S K N : Bytes) : Bytes :=
  fit P.tagLen (if P.id = Config.toyId then toyFinalize S K N else Config.familyFinalize P S K N)

/-- Whether a raw call of SKINNY-128-128 runs the full cipher (R144, R147). -/
def skinnyFull (D : PrimDesc) (r start : Nat) : Bool :=
  D.id == Config.skinnyId && r == skinnyFullRounds && start == 0

/-- Whether law PRIM-INV is about a call: the descriptor can decrypt and the round pair is legal (R142). -/
def invertible (D : PrimDesc) (r start : Nat) : Bool := D.hasDec && legalRounds D r start

/-- `enc` under law PRIM-INV (log entry 8). -/
def cipherEnc (D : PrimDesc) (k : Bytes) (r start : Nat) (b : Bytes) : Bytes :=
  List.ofFn (Config.primCipher D k r start (fun i => byteAt b i))

/-- `dec` under law PRIM-INV: the inverse of `cipherEnc` (log entry 8). -/
def cipherDec (D : PrimDesc) (k : Bytes) (r start : Nat) (b : Bytes) : Bytes :=
  List.ofFn ((Config.primCipher D k r start).symm (fun i => byteAt b i))

/-- `D.enc(k, R, S, b)`. -/
def primEncBlock (D : PrimDesc) (k : Bytes) (r start : Nat) (b : Bytes) : Bytes :=
  fit D.blockBytes
    (if skinnyFull D r start then skinnyEnc k b
    else if invertible D r start then cipherEnc D k r start b
    else Config.primEncrypt D k r start b)

/-- `D.dec(k, R, S, b)`. -/
def primDecBlock (D : PrimDesc) (k : Bytes) (r start : Nat) (b : Bytes) : Bytes :=
  fit D.blockBytes
    (if skinnyFull D r start then skinnyDec k b
    else if invertible D r start then cipherDec D k r start b
    else Config.primDecrypt D k r start b)

/-- `D.perm(R, S, b)`. -/
def primPermBlock (D : PrimDesc) (r start : Nat) (b : Bytes) : Bytes :=
  fit D.blockBytes (if D.id = Config.toyId then toyfPerm r b else Config.primPermute D r start b)

end Sys2Proof.Machine
end

