-- ==== Sys2Proof/Machine/Flags.lean ====
section
/-! DEFINITION. The status flags (spec/10_state.md R71): their codes (spec/30_encoding.md R114, R115, R118), the words
STATUS, ERR and CTRL read as (R35, R48, R33), the write-1-to-clear bits, and IRQ (R75). -/

namespace Sys2Proof.Machine

/-- The code of STATUS.PHASE (R115). -/
def Phase.code : Phase → Nat
  | .idle => 0x0
  | .check => 0x1
  | .init => 0x2
  | .ad => 0x3
  | .msg => 0x4
  | .final => 0x5
  | .verify => 0x6
  | .scrub => 0x7
  | .wipe => 0x8
  | .prim => 0x9
  | .bufclr => 0xA

/-- The code of STATUS.RESULT (R114). -/
def Result.code : Result → Nat
  | .ok => 0
  | .invalidParameters => 1
  | .authenticationFailure => 2

/-- The code of ERR.DETAIL (R118). -/
def Detail.code : Detail → Nat
  | .none => 0
  | .badOpcode => 1
  | .badFamily => 2
  | .badKeyLen => 3
  | .badNonceLen => 4
  | .shortInput => 5
  | .adTooLong => 6
  | .msgTooLong => 7
  | .bounds => 8
  | .overlap => 9
  | .badPrim => 10
  | .badRounds => 11
  | .badBlockLen => 12
  | .tagMismatch => 13

/-- STATUS as a word (R35): BUSY bit 0, DONE bit 1, RESULT bits 3..2, PHASE bits 7..4, HOSTERR bit 8. -/
def statusWord (s : State) : Word :=
  BitVec.ofNat 32
    (s.busy.toNat + 2 * s.done.toNat + 4 * s.result.code + 16 * s.phase.code + 256 * s.hostErr.toNat)

/-- ERR as a word (R48). -/
def errWord (s : State) : Word := BitVec.ofNat 32 s.detail.code

/-- CTRL as a word (R33): IE in bit 0; SRST reads 0. -/
def ctrlWord (s : State) : Word := BitVec.ofNat 32 s.ie.toNat

/-- A host write of STATUS (R35): bit 1 clears DONE, bit 8 clears HOSTERR, every other bit is ignored. -/
def writeStatus (v : Word) (s : State) : State :=
  { s with
    done := s.done && !v.getLsbD 1
    hostErr := s.hostErr && !v.getLsbD 8 }

/-- A host write of CTRL (R33): bit 1 is the soft reset (R351), which leaves IE 0 whatever bit 0; else bit 0 is IE. -/
def writeCtrl (v : Word) (s : State) : State :=
  if v.getLsbD 1 then resetState s else { s with ie := v.getLsbD 0 }

/-- The IRQ output (R75): DONE AND IE. -/
def irq (s : State) : Bool := s.done && s.ie

/-- Whether host interrupt input `line` is driven: the one IRQ reaches (spec/60_exceptions.md R318). -/
def drivesLine (s : State) (line : Nat) : Bool := irq s && line == s.params.adeIrqLine

end Sys2Proof.Machine
end

