-- ==== Sys2Proof/Machine/Verifier.lean ====
section
/-! DEFINITION. The constant-time tag comparator and the plaintext scrubber (spec/43_verifier.md). -/

namespace Sys2Proof.Machine

/-- The comparator's 16-bit accumulator: the OR of the first `t` byte differences (R250). -/
def tagAcc (a b : Bytes) : Nat → BitVec 16
  | 0 => 0#16
  | t + 1 => tagAcc a b t ||| (byteAt a t ^^^ byteAt b t).setWidth 16

/-- `CtMask(a, b, t)` (R250): `((acc - 1) mod 2^16) >> 8`, taken to 8 bits. -/
def ctMask (a b : Bytes) (t : Nat) : Byte := ((tagAcc a b t - 1#16) >>> 8).setWidth 8

/-- `CtEq(a, b, t)` (R250). -/
def ctEq (a b : Bytes) (t : Nat) : Bool := ctMask a b t == 0xFF#8

/-- The VERIFY step (R252). -/
def verifyStep (s : State) : Out :=
  match profileOf s with
  | none => .fault .noProfile
  | some P =>
    .next { s with
      mask := ctMask s.tc s.ts P.tagLen
      phase := .scrub }

/-- The outcome SCRUB writes to RESULT for `g = MASK[0]` (R254): code `2 * (1 - g)`. -/
def scrubResult (g : Bool) : Result := if g then .ok else .authenticationFailure

/-- The code SCRUB writes to DETAIL for `g = MASK[0]` (R254): code `13 * (1 - g)`. -/
def scrubDetail (g : Bool) : Detail := if g then .none else .tagMismatch

/-- The SCRUB step (R254): every payload byte is rewritten, ANDed with MASK. -/
def scrubStep (s : State) : Out :=
  match memRead s s.outPtr.toNat s.mLen.toNat with
  | none => .fault .outsideBuf
  | some x =>
    match memWrite s s.outPtr.toNat (x.map (fun b => b &&& s.mask)) with
    | none => .fault .outsideBuf
    | some m =>
      .next { s with
        buf := m
        outLen := s.mLen
        result := scrubResult (s.mask.getLsbD 0)
        detail := scrubDetail (s.mask.getLsbD 0)
        phase := .wipe }

end Sys2Proof.Machine
end

