-- ==== Sys2Proof/Machine/Engine.lean ====
section
/-! DEFINITION. The sequencer's steps of ENCRYPT and DECRYPT but for VERIFY and SCRUB (spec/42_engine.md R207 to R220).
`s.st.take P.stateBytes` is `ST[0..sb)`; writing it leaves the rest of ST. -/

namespace Sys2Proof.Machine

/-- The BUF offset of the supplied tag (R208). -/
def suppliedTagPtr (P : Profile) (s : State) : Nat := s.inPtr.toNat + messageLen .dec P s

/-- What a CHECK step that passed latches (R208): the key and nonce, MLEN, the supplied tag, the offsets. -/
def latchOperands (d : Dir) (P : Profile) (k n t : Bytes) (s : State) : State :=
  { s with
    kl := fit Config.latchBytes k
    nl := fit Config.latchBytes n
    mLen := BitVec.ofNat 32 (messageLen d P s)
    ts := match d with
      | .enc => s.ts
      | .dec => fit Config.latchBytes t
    adOff := 0#32
    mOff := 0#32
    phase := .init }

/-- The CHECK step of ENCRYPT and DECRYPT (R207, R208). -/
def aeadCheckStep (d : Dir) (s : State) : Out :=
  match aeadCheck d s with
  | .error e => .next (raiseInvalidParameters e s)
  | .ok P =>
    match memRead s s.keyPtr.toNat P.keyLen, memRead s s.noncePtr.toNat P.nonceLen,
        (match d with
          | .enc => some []
          | .dec => memRead s (suppliedTagPtr P s) P.tagLen) with
    | some k, some n, some t => .next (latchOperands d P k n t s)
    | _, _, _ => .fault .outsideBuf

/-- The INIT step (R210). -/
def initStep (s : State) : Out :=
  match profileOf s with
  | none => .fault .noProfile
  | some P =>
    .next { s with
      st := fit s.params.sMax (famInit P (s.kl.take P.keyLen) (s.nl.take P.nonceLen))
      phase := .ad }

/-- What the AD step's classifier answers (R212). -/
def adBlock (P : Profile) (s : State) : Nat × DomClass :=
  classify s.adLen.toNat s.adOff.toNat P.unitAd .ad

/-- The AD step's effect once its data bytes `x` are read (R212). -/
def absorbAd (P : Profile) (x : Bytes) (s : State) : State :=
  { s with
    st := famAbsorb P (s.st.take P.stateBytes) (pad x P.unitAd P.padMode) (adBlock P s).1 (domByte P (adBlock P s).2)
      ++ s.st.drop P.stateBytes
    adOff := BitVec.ofNat 32 (s.adOff.toNat + (adBlock P s).1)
    phase := if s.adLen.toNat ≤ s.adOff.toNat + (adBlock P s).1 then .msg else .ad }

/-- The AD step (R212). -/
def adStep (s : State) : Out :=
  match profileOf s with
  | none => .fault .noProfile
  | some P =>
    match memRead s (s.adPtr.toNat + s.adOff.toNat) (adBlock P s).1 with
    | none => .fault .outsideBuf
    | some x => .next (absorbAd P x s)

/-- What the MSG step's classifier answers (R214, R215). -/
def msgBlock (P : Profile) (s : State) : Nat × DomClass :=
  classify s.mLen.toNat s.mOff.toNat P.unitMsg .msg

/-- What the profile computes from the data bytes `x` of a MSG step: the new state and the output (R214, R215). -/
def msgOutput (d : Dir) (P : Profile) (x : Bytes) (s : State) : Bytes × Bytes :=
  match d with
  | .enc =>
    famEncBlock P (s.st.take P.stateBytes) (pad x P.unitMsg P.padMode) (msgBlock P s).1 (domByte P (msgBlock P s).2)
  | .dec => famDecBlock P (s.st.take P.stateBytes) x (msgBlock P s).1 (domByte P (msgBlock P s).2)

/-- The MSG step's effect once its output is in BUF `m` (R214, R215). -/
def advanceMsg (d : Dir) (P : Profile) (x : Bytes) (m : Mem) (s : State) : State :=
  { s with
    buf := m
    st := (msgOutput d P x s).1 ++ s.st.drop P.stateBytes
    mOff := BitVec.ofNat 32 (s.mOff.toNat + (msgBlock P s).1)
    phase := if s.mLen.toNat ≤ s.mOff.toNat + (msgBlock P s).1 then .final else .msg }

/-- The MSG step (R214, R215): the input block is read before the output block is written. -/
def msgStep (d : Dir) (s : State) : Out :=
  match profileOf s with
  | none => .fault .noProfile
  | some P =>
    match memRead s (s.inPtr.toNat + s.mOff.toNat) (msgBlock P s).1 with
    | none => .fault .outsideBuf
    | some x =>
      match memWrite s (s.outPtr.toNat + s.mOff.toNat) (msgOutput d P x s).2 with
      | none => .fault .outsideBuf
      | some m => .next (advanceMsg d P x m s)

/-- The tag the FINAL step computes (R220). -/
def computedTag (P : Profile) (s : State) : Bytes :=
  famFinalize P (s.st.take P.stateBytes) (s.kl.take P.keyLen) (s.nl.take P.nonceLen)

/-- The FINAL step (R220): ENCRYPT writes the tag after the ciphertext; DECRYPT goes on to VERIFY. -/
def finalStep (d : Dir) (s : State) : Out :=
  match profileOf s with
  | none => .fault .noProfile
  | some P =>
    match d with
    | .enc =>
      match memWrite s (s.outPtr.toNat + s.mLen.toNat) (computedTag P s) with
      | none => .fault .outsideBuf
      | some m =>
        .next { s with
          tc := fit Config.latchBytes (computedTag P s)
          buf := m
          outLen := BitVec.ofNat 32 (s.mLen.toNat + P.tagLen)
          result := .ok
          detail := .none
          phase := .wipe }
    | .dec =>
      .next { s with
        tc := fit Config.latchBytes (computedTag P s)
        phase := .verify }

end Sys2Proof.Machine
end

