-- ==== Sys2Proof/Machine/Primitive.lean ====
section
/-! DEFINITION. The steps of the raw primitive commands (spec/40_primitive.md R150 to R155). -/

namespace Sys2Proof.Machine

/-- The CHECK step of PRIM_ENC, PRIM_DEC and PRIM_PERM (R150). -/
def primCheckStep (o : PrimOp) (s : State) : Out :=
  match primCheck o s with
  | .error e => .next (raiseInvalidParameters e s)
  | .ok _ => .next { s with phase := .prim }

/-- The bytes of the key operand the PRIM step reads: none for PRIM_PERM (R152). -/
def primKeyBytes (o : PrimOp) (D : PrimDesc) : Nat :=
  match o with
  | .enc => D.keyBytes
  | .dec => D.keyBytes
  | .perm => 0

/-- What the wrapper computes (R141, R152). -/
def primOutput (o : PrimOp) (D : PrimDesc) (k b : Bytes) (s : State) : Bytes :=
  match o with
  | .enc => primEncBlock D k (roundCount D s) s.start.toNat b
  | .dec => primDecBlock D k (roundCount D s) s.start.toNat b
  | .perm => primPermBlock D (roundCount D s) s.start.toNat b

/-- The PRIM step (R152): the block and the key are read before the output is written. -/
def primStep (o : PrimOp) (s : State) : Out :=
  match primOf s with
  | none => .fault .noPrimitive
  | some D =>
    match memRead s s.inPtr.toNat D.blockBytes, memRead s s.keyPtr.toNat (primKeyBytes o D) with
    | some b, some k =>
      match memWrite s s.outPtr.toNat (primOutput o D k b s) with
      | none => .fault .outsideBuf
      | some m =>
        .next { s with
          buf := m
          outLen := BitVec.ofNat 32 D.blockBytes
          result := .ok
          detail := .none
          phase := .wipe }
    | _, _ => .fault .outsideBuf

/-- The sequencer's step of a raw primitive command, selected by PHASE (spec/42_engine.md R206). -/
def primSequence (o : PrimOp) (s : State) : Out :=
  match s.phase with
  | .check => primCheckStep o s
  | .prim => primStep o s
  | .wipe => .next (wipe s)
  | .idle => .fault .noSequencerStep
  | .init => .fault .noSequencerStep
  | .ad => .fault .noSequencerStep
  | .msg => .fault .noSequencerStep
  | .final => .fault .noSequencerStep
  | .verify => .fault .noSequencerStep
  | .scrub => .fault .noSequencerStep
  | .bufclr => .fault .noSequencerStep

/-- A command in the state it meets (log entry 3): while BUSY = 0 its CMD write is accepted (spec/44_commands.md R270);
while BUSY = 1 and OP names it, it takes the sequencer's next step (R206). -/
def runCommand (op : BitVec 4) (sequence : State → Out) (s : State) : Out :=
  if s.busy then
    if s.op = op then sequence s else .fault .noSequencerStep
  else .next (acceptCommand op s)

/-- PRIM_ENC (R153). -/
def execPrimEnc (s : State) : Out := runCommand 0x3#4 (primSequence .enc) s

/-- PRIM_DEC (R154). -/
def execPrimDec (s : State) : Out := runCommand 0x4#4 (primSequence .dec) s

/-- PRIM_PERM (R155). -/
def execPrimPerm (s : State) : Out := runCommand 0x5#4 (primSequence .perm) s

end Sys2Proof.Machine
end

