-- ==== Sys2Proof/Machine/Commands.lean ====
section
/-! DEFINITION. The host commands but for the raw primitive ones (spec/44_commands.md R272 to R276), each one a
definition over the steps its rule lists (spec/42_engine.md R206). -/

namespace Sys2Proof.Machine

/-- The sequencer's step of ENCRYPT, selected by PHASE (R206, R273). -/
def encryptSequence (s : State) : Out :=
  match s.phase with
  | .check => aeadCheckStep .enc s
  | .init => initStep s
  | .ad => adStep s
  | .msg => msgStep .enc s
  | .final => finalStep .enc s
  | .wipe => .next (wipe s)
  | .idle => .fault .noSequencerStep
  | .verify => .fault .noSequencerStep
  | .scrub => .fault .noSequencerStep
  | .prim => .fault .noSequencerStep
  | .bufclr => .fault .noSequencerStep

/-- The sequencer's step of DECRYPT, selected by PHASE (R206, R274). -/
def decryptSequence (s : State) : Out :=
  match s.phase with
  | .check => aeadCheckStep .dec s
  | .init => initStep s
  | .ad => adStep s
  | .msg => msgStep .dec s
  | .final => finalStep .dec s
  | .verify => verifyStep s
  | .scrub => scrubStep s
  | .wipe => .next (wipe s)
  | .idle => .fault .noSequencerStep
  | .prim => .fault .noSequencerStep
  | .bufclr => .fault .noSequencerStep

/-- The sequencer's step of ZEROIZE, selected by PHASE (R206, R275). -/
def zeroizeSequence (s : State) : Out :=
  match s.phase with
  | .check => .next { s with phase := .bufclr }
  | .bufclr => .next (zeroizeBuf s)
  | .wipe => .next (wipe s)
  | .idle => .fault .noSequencerStep
  | .init => .fault .noSequencerStep
  | .ad => .fault .noSequencerStep
  | .msg => .fault .noSequencerStep
  | .final => .fault .noSequencerStep
  | .verify => .fault .noSequencerStep
  | .scrub => .fault .noSequencerStep
  | .prim => .fault .noSequencerStep

/-- The sequencer's step of a reserved encoding, selected by PHASE (R206, R276). -/
def reservedSequence (s : State) : Out :=
  match s.phase with
  | .check => .next (raiseInvalidParameters .badOpcode s)
  | .wipe => .next (wipe s)
  | .idle => .fault .noSequencerStep
  | .init => .fault .noSequencerStep
  | .ad => .fault .noSequencerStep
  | .msg => .fault .noSequencerStep
  | .final => .fault .noSequencerStep
  | .verify => .fault .noSequencerStep
  | .scrub => .fault .noSequencerStep
  | .prim => .fault .noSequencerStep
  | .bufclr => .fault .noSequencerStep

/-- NOP (R272): while BUSY = 0 nothing; while BUSY = 1 the write is dropped (R271). -/
def execNop (s : State) : Out := if s.busy then .next (dropTransaction s) else .next s

/-- ENCRYPT (R273). -/
def execEncrypt (s : State) : Out := runCommand 0x1#4 encryptSequence s

/-- DECRYPT (R274). -/
def execDecrypt (s : State) : Out := runCommand 0x2#4 decryptSequence s

/-- ZEROIZE (R275). -/
def execZeroize (s : State) : Out := runCommand 0x6#4 zeroizeSequence s

/-- The encoding kept for a hash command (R276). -/
def execReservedHash (s : State) : Out := runCommand 0x7#4 reservedSequence s

/-- Reserved encoding 0x8 (R276). -/
def execReserved8 (s : State) : Out := runCommand 0x8#4 reservedSequence s

/-- Reserved encoding 0x9 (R276). -/
def execReserved9 (s : State) : Out := runCommand 0x9#4 reservedSequence s

/-- Reserved encoding 0xA (R276). -/
def execReservedA (s : State) : Out := runCommand 0xA#4 reservedSequence s

/-- Reserved encoding 0xB (R276). -/
def execReservedB (s : State) : Out := runCommand 0xB#4 reservedSequence s

/-- Reserved encoding 0xC (R276). -/
def execReservedC (s : State) : Out := runCommand 0xC#4 reservedSequence s

/-- Reserved encoding 0xD (R276). -/
def execReservedD (s : State) : Out := runCommand 0xD#4 reservedSequence s

/-- Reserved encoding 0xE (R276). -/
def execReservedE (s : State) : Out := runCommand 0xE#4 reservedSequence s

/-- Reserved encoding 0xF (R276). -/
def execReservedF (s : State) : Out := runCommand 0xF#4 reservedSequence s

/-- Every word with a bit of [31:4] set (R112, R276): it latches OP = 0xF (R270). -/
def execReservedHigh (_high : BitVec 28) (_opcode : BitVec 4) (s : State) : Out :=
  runCommand 0xF#4 reservedSequence s

end Sys2Proof.Machine
end

