-- ==== Sys2Proof/Machine/Dispatch.lean ====
section
/-! DEFINITION. One arm per command: what it does next in the state it meets (log entry 3). -/

namespace Sys2Proof.Machine

def exec (i : Instr) (s : State) : Host.Outcome State Fault Refusal :=
  match i with
  | .nop => Sys2Proof.Machine.execNop s
  | .encrypt => Sys2Proof.Machine.execEncrypt s
  | .decrypt => Sys2Proof.Machine.execDecrypt s
  | .primEnc => Sys2Proof.Machine.execPrimEnc s
  | .primDec => Sys2Proof.Machine.execPrimDec s
  | .primPerm => Sys2Proof.Machine.execPrimPerm s
  | .zeroize => Sys2Proof.Machine.execZeroize s
  | .reservedHash => Sys2Proof.Machine.execReservedHash s
  | .reserved8 => Sys2Proof.Machine.execReserved8 s
  | .reserved9 => Sys2Proof.Machine.execReserved9 s
  | .reservedA => Sys2Proof.Machine.execReservedA s
  | .reservedB => Sys2Proof.Machine.execReservedB s
  | .reservedC => Sys2Proof.Machine.execReservedC s
  | .reservedD => Sys2Proof.Machine.execReservedD s
  | .reservedE => Sys2Proof.Machine.execReservedE s
  | .reservedF => Sys2Proof.Machine.execReservedF s
  | .reservedHigh high opcode => Sys2Proof.Machine.execReservedHigh high opcode s

end Sys2Proof.Machine
end

