-- ==== Sys2Proof/Machine/HostBus.lean ====
section
/-! DEFINITION. The host bus (spec/20_memory.md): the map of the offset space (R81), the legal transactions (R85), the host
registers (spec/10_state.md section 2), the BUF window (R82, R83) and the busy rule (R88). -/

namespace Sys2Proof.Machine

/-- The host registers (spec/10_state.md R31 to R52). -/
inductive HostReg where
  | id
  | version
  | ctrl
  | cmd
  | status
  | err
  | family
  | keyLen
  | nonceLen
  | keyPtr
  | noncePtr
  | adPtr
  | adLen
  | inPtr
  | inLen
  | outPtr
  | outLen
  | primCfg
  | bufSize
  | famInfo0
  | famInfo1
  | primInfo
  deriving DecidableEq, Repr

/-- The offset of a host register (R31 to R52). -/
def HostReg.offset : HostReg → Nat
  | .id => 0x000
  | .version => 0x004
  | .ctrl => 0x008
  | .cmd => 0x00C
  | .status => 0x010
  | .err => 0x014
  | .family => 0x018
  | .keyLen => 0x01C
  | .nonceLen => 0x020
  | .keyPtr => 0x024
  | .noncePtr => 0x028
  | .adPtr => 0x02C
  | .adLen => 0x030
  | .inPtr => 0x034
  | .inLen => 0x038
  | .outPtr => 0x03C
  | .outLen => 0x040
  | .primCfg => 0x044
  | .bufSize => 0x048
  | .famInfo0 => 0x04C
  | .famInfo1 => 0x050
  | .primInfo => 0x054

/-- Every host register, by rising offset. -/
def hostRegs : List HostReg :=
  [.id, .version, .ctrl, .cmd, .status, .err, .family, .keyLen, .nonceLen, .keyPtr, .noncePtr, .adPtr, .adLen, .inPtr,
   .inLen, .outPtr, .outLen, .primCfg, .bufSize, .famInfo0, .famInfo1, .primInfo]

/-- The register at an offset of the register region; none at a reserved offset (R53). -/
def hostRegAt (off : Nat) : Option HostReg := hostRegs.find? (fun r => r.offset == off)

/-- ID (R31). -/
abbrev idWord : Word := 0x41444531#32

/-- VERSION (R32). -/
abbrev versionWord : Word := 0x00010000#32

/-- FAMINFO0 (R50). -/
def famInfo0Word (s : State) : Word :=
  match profileOf s with
  | none => 0#32
  | some P => BitVec.ofNat 32 (P.keyLen + 2 ^ 8 * P.nonceLen + 2 ^ 16 * P.tagLen + 2 ^ 31)

/-- FAMINFO1 (R51). -/
def famInfo1Word (s : State) : Word :=
  match profileOf s with
  | none => 0#32
  | some P => BitVec.ofNat 32 (P.unitAd + 2 ^ 8 * P.unitMsg)

/-- PRIMINFO (R52). -/
def primInfoWord (s : State) : Word :=
  match primOf s with
  | none => 0#32
  | some D =>
    BitVec.ofNat 32
      (D.blockBytes + 2 ^ 8 * D.keyBytes + 2 ^ 16 * D.maxRounds + 2 ^ 24 + 2 ^ 25 * D.hasDec.toNat
        + 2 ^ 26 * (D.kind == .permutation).toNat)

/-- PRIM_CFG as a word (R46). -/
def primCfgWord (s : State) : Word := 0#8 ++ s.start ++ s.rounds ++ s.psel

/-- What a register reads as (R31 to R52). CMD reads 0 (R34). -/
def readReg (s : State) : HostReg → Word
  | .id => idWord
  | .version => versionWord
  | .ctrl => ctrlWord s
  | .cmd => 0#32
  | .status => statusWord s
  | .err => errWord s
  | .family => s.family.setWidth 32
  | .keyLen => s.keyLen.setWidth 32
  | .nonceLen => s.nonceLen.setWidth 32
  | .keyPtr => s.keyPtr
  | .noncePtr => s.noncePtr
  | .adPtr => s.adPtr
  | .adLen => s.adLen
  | .inPtr => s.inPtr
  | .inLen => s.inLen
  | .outPtr => s.outPtr
  | .outLen => s.outLen
  | .primCfg => primCfgWord s
  | .bufSize => BitVec.ofNat 32 s.params.bufSize
  | .famInfo0 => famInfo0Word s
  | .famInfo1 => famInfo1Word s
  | .primInfo => primInfoWord s

/-- What a host transaction does: the ADE's state after it, a command to run (R270), or a bus error response (R86). -/
inductive BusOutcome where
  | done (s : State)
  | command (w : Word) (s : State)
  | busErr
  deriving DecidableEq, Repr

/-- A write of an operand register: dropped while BUSY = 1 (R88 (a)). -/
def writeOperand (s s' : State) : BusOutcome := .done (if s.busy then dropTransaction s else s')

/-- A host write of a register (R31 to R52, R87, R88). -/
def writeReg (s : State) (r : HostReg) (v : Word) : BusOutcome :=
  match r with
  | .id => .done s
  | .version => .done s
  | .ctrl => .done (writeCtrl v s)
  | .cmd => if s.busy then .done (dropTransaction s) else .command v s
  | .status => .done (writeStatus v s)
  | .err => .done s
  | .family => writeOperand s { s with family := v.extractLsb' 0 8 }
  | .keyLen => writeOperand s { s with keyLen := v.extractLsb' 0 8 }
  | .nonceLen => writeOperand s { s with nonceLen := v.extractLsb' 0 8 }
  | .keyPtr => writeOperand s { s with keyPtr := v }
  | .noncePtr => writeOperand s { s with noncePtr := v }
  | .adPtr => writeOperand s { s with adPtr := v }
  | .adLen => writeOperand s { s with adLen := v }
  | .inPtr => writeOperand s { s with inPtr := v }
  | .inLen => writeOperand s { s with inLen := v }
  | .outPtr => writeOperand s { s with outPtr := v }
  | .outLen => .done s
  | .primCfg =>
    writeOperand s
      { s with
        psel := v.extractLsb' 0 8
        rounds := v.extractLsb' 8 8
        start := v.extractLsb' 16 8 }
  | .bufSize => .done s
  | .famInfo0 => .done s
  | .famInfo1 => .done s
  | .primInfo => .done s

/-- The regions of the host offset space (R81). -/
inductive Region where
  | registers
  | window
  | unmapped
  deriving DecidableEq, Repr

/-- Where the BUF window begins (R81). -/
abbrev windowBase : Nat := 0x8000

/-- The region of a host offset (R81). -/
def regionOf (s : State) (off : Nat) : Region :=
  if off < 0x100 then .registers
  else if windowBase ≤ off ∧ off < windowBase + s.params.bufSize then .window
  else .unmapped

/-- Whether a width is 8, 16 or 32 bits and the offset aligned to it (R85, R86). -/
def alignedAccess (off width : Nat) : Bool :=
  (width == 8 || width == 16 || width == 32) && off % (width / 8) == 0

/-- The legal transactions (R85). -/
def legalAccess (s : State) (off width : Nat) : Bool :=
  alignedAccess off width &&
  match regionOf s off with
  | .registers => width == 32
  | .window => decide (off + width / 8 ≤ windowBase + s.params.bufSize)
  | .unmapped => true

/-- A legal host read at an offset (R83, R87, R88 (c)): the state after it and the data. -/
def readOffset (s : State) (off width : Nat) : State × Word :=
  match regionOf s off with
  | .registers =>
    match hostRegAt off with
    | some r => (s, readReg s r)
    | none => (s, 0#32)
  | .unmapped => (s, 0#32)
  | .window =>
    if s.busy then (dropTransaction s, 0#32)
    else (s, BitVec.ofNat 32 (loadLE (s.buf.readBytes (off - windowBase) (width / 8))))

/-- A legal host write at an offset (R83, R87, R88). -/
def writeOffset (s : State) (off width : Nat) (v : Word) : BusOutcome :=
  match regionOf s off with
  | .registers =>
    match hostRegAt off with
    | some r => writeReg s r v
    | none => .done s
  | .unmapped => .done s
  | .window =>
    if s.busy then .done (dropTransaction s)
    else .done { s with buf := s.buf.writeBytes (off - windowBase) (storeLE (width / 8) v.toNat) }

/-- What a transaction returned to the host (log entry 11). -/
def respond (r : BusResponse) (s : State) : State := { s with response := r }

/-- The response recorded, whatever the outcome of a write. -/
def respondOutcome (r : BusResponse) : BusOutcome → BusOutcome
  | .done s => .done (respond r s)
  | .command w s => .command w (respond r s)
  | .busErr => .busErr

/-- A host transaction at an offset of the ADE (R85 to R90). -/
def accessOffset (s : State) (off width : Nat) (op : BusOp) : BusOutcome :=
  if legalAccess s off width then
    match op with
    | .read => .done (respond (.data (readOffset s off width).2) (readOffset s off width).1)
    | .write v => respondOutcome .written (writeOffset s off width v)
  else .busErr

/-- The host offset a system address reaches: `ADE_BASE + o` reaches `o` (R81). -/
def offsetOf (s : State) (addr : Nat) : Option Nat :=
  if s.params.adeBase ≤ addr ∧ addr < s.params.adeBase + 0x10000 then some (addr - s.params.adeBase) else none

/-- A transaction of the host: one that reaches no offset of the ADE leaves it as it is (log entry 13). -/
def busAccess (s : State) (t : Txn) : BusOutcome :=
  match offsetOf s t.addr with
  | none => .done (respond .none s)
  | some off => accessOffset s off t.width t.op

/-- The CMD write of a command word (spec/30_encoding.md R110, R123). -/
def commandWrite (s : State) (w : Word) : Event :=
  .bus { op := .write w, width := 32, addr := s.params.adeBase + HostReg.cmd.offset }

end Sys2Proof.Machine
end

