-- ==== Sys2Proof/Machine/Step.lean ====
section
/-! DEFINITION. One step of the machine: the next event of the total order of host transactions, sequencer steps and
resets (spec/20_memory.md R89, spec/60_exceptions.md R317). -/

namespace Sys2Proof.Machine

/-- The sequencer's step, if it has one (spec/42_engine.md R206): with BUSY = 0 nothing happens (R327). -/
def sequencerTurn (s : State) : Host.Outcome State Fault Refusal :=
  if s.busy then
    match runningInstr s.op with
    | some i => exec i s
    | none => resetTurn s
  else .next s

/-- A host transaction; an accepted CMD write runs the command its word decodes to (spec/44_commands.md R270). -/
def hostTurn (t : Txn) (s : State) : Host.Outcome State Fault Refusal :=
  match busAccess s t with
  | .done s' => .next s'
  | .command w s' => exec (decode w) s'
  | .busErr => .fault .busErr

/-- One step: the oldest pending event; with none pending the sequencer moves (R371; log entry 1). -/
def step (s : State) : Host.Outcome State Fault Refusal :=
  match s.agenda with
  | [] => sequencerTurn s
  | .turn :: rest => sequencerTurn { s with agenda := rest }
  | .bus t :: rest => hostTurn t { s with agenda := rest }
  | .hwReset :: rest => .next (resetState { s with agenda := rest })

/-- `s` with the table's instruction bits `w` as the next event: the host's CMD write of that word, and BUSY = 0 and
PHASE = IDLE so that it is accepted (R270, R271; log entry 2). -/
def State.withFetchWord (s : State) (nbits w : Nat) : State :=
  { s with
    busy := false
    phase := .idle
    op := 0#4
    agenda := commandWrite s (tableWord nbits w) :: s.agenda }

end Sys2Proof.Machine
end

