-- ==== Sys2Proof/Machine/Aead.lean ====
section
/-! DEFINITION. What the steps of a command add up to (spec/42_engine.md R233): the reference functions of the latched
inputs, one loop iteration per step. The statements compare the machine's runs with them; no step calls them. -/

namespace Sys2Proof.Machine

/-- The number of steps of a phase of length `len` and unit `u`: `max(1, ceil(len / u))` (R206, spec/41_padding.md R175). -/
def phaseSteps (len u : Nat) : Nat := max 1 ((len + u - 1) / u)

/-- The byte counts and classes of the steps of a phase from offset `off`, for at most `k` more steps: each step is the
classifier's, and the phase ends when its bytes are consumed (R212, R214, R215). -/
def phaseBlocks (total u : Nat) (ph : PadPhase) : Nat → Nat → List (Nat × DomClass)
  | 0, _ => []
  | k + 1, off =>
    let c := classify total off u ph
    c :: (if total ≤ off + c.1 then [] else phaseBlocks total u ph k (off + c.1))

/-- The data bytes of one iteration: `b[off .. off + n)` (R12). -/
def slice (b : Bytes) (off n : Nat) : Bytes := (b.drop off).take n

/-- `AbsorbAll` from offset `off`, for `k` more iterations (R233). -/
def absorbFrom (P : Profile) (A : Bytes) : Nat → Nat → Bytes → Bytes
  | 0, _, S => S
  | k + 1, off, S =>
    let c := classify A.length off P.unitAd .ad
    absorbFrom P A k (off + c.1)
      (famAbsorb P S (pad (slice A off c.1) P.unitAd P.padMode) c.1 (domByte P c.2))

/-- `AbsorbAll(S, A)` (R233). -/
def absorbAll (P : Profile) (S A : Bytes) : Bytes := absorbFrom P A (phaseSteps A.length P.unitAd) 0 S

/-- `EncAll` from offset `off`, for `k` more iterations (R233): the state and the output. -/
def encFrom (P : Profile) (X : Bytes) : Nat → Nat → Bytes → Bytes × Bytes
  | 0, _, S => (S, [])
  | k + 1, off, S =>
    let c := classify X.length off P.unitMsg .msg
    let r := famEncBlock P S (pad (slice X off c.1) P.unitMsg P.padMode) c.1 (domByte P c.2)
    let rest := encFrom P X k (off + c.1) r.1
    (rest.1, r.2 ++ rest.2)

/-- `EncAll(S, X)` (R233). -/
def encAll (P : Profile) (S X : Bytes) : Bytes × Bytes := encFrom P X (phaseSteps X.length P.unitMsg) 0 S

/-- `DecAll` from offset `off`, for `k` more iterations (R233). -/
def decFrom (P : Profile) (X : Bytes) : Nat → Nat → Bytes → Bytes × Bytes
  | 0, _, S => (S, [])
  | k + 1, off, S =>
    let c := classify X.length off P.unitMsg .msg
    let r := famDecBlock P S (slice X off c.1) c.1 (domByte P c.2)
    let rest := decFrom P X k (off + c.1) r.1
    (rest.1, r.2 ++ rest.2)

/-- `DecAll(S, X)` (R233). -/
def decAll (P : Profile) (S X : Bytes) : Bytes × Bytes := decFrom P X (phaseSteps X.length P.unitMsg) 0 S

/-- The ciphertext and the tag of `AEAD_Enc(K, N, A, X)` (R233). -/
def aeadEncParts (P : Profile) (K N A X : Bytes) : Bytes × Bytes :=
  let r := encAll P (absorbAll P (famInit P K N) A) X
  (r.2, famFinalize P r.1 K N)

/-- `AEAD_Enc(K, N, A, X)` (R233). -/
def aeadEnc (P : Profile) (K N A X : Bytes) : Bytes :=
  (aeadEncParts P K N A X).1 ++ (aeadEncParts P K N A X).2

/-- The candidate plaintext and the computed tag of `AEAD_Dec` (R233). -/
def aeadDecParts (P : Profile) (K N A X : Bytes) : Bytes × Bytes :=
  let r := decAll P (absorbAll P (famInit P K N) A) X
  (r.2, famFinalize P r.1 K N)

/-- `AEAD_Dec(K, N, A, X, T)` (R233): the scrubbed plaintext, and whether the tags matched. -/
def aeadDec (P : Profile) (K N A X T : Bytes) : Bytes × Bool :=
  let r := aeadDecParts P K N A X
  let mask := ctMask r.2 T P.tagLen
  (r.1.map (fun b => b &&& mask), mask == 0xFF#8)

/-- Law ENC-DEC of a profile (R202), which a statement may assume of a profile and the machine never uses. -/
def EncDecLaw (P : Profile) : Prop :=
  ∀ (S x : Bytes) (d : Byte), S.length = P.stateBytes → x.length ≤ P.unitMsg →
    famDecBlock P S (famEncBlock P S (pad x P.unitMsg P.padMode) x.length d).2 x.length d
      = ((famEncBlock P S (pad x P.unitMsg P.padMode) x.length d).1, x)

/-- Law PRIM-INV of a descriptor (spec/40_primitive.md R142): at every legal round pair, for every key and every block,
if it can decrypt. -/
def PrimInvLaw (D : PrimDesc) : Prop :=
  D.hasDec = true → ∀ r start : Nat, legalRounds D r start = true →
    ∀ k b : Bytes, k.length = D.keyBytes → b.length = D.blockBytes →
      primDecBlock D k r start (primEncBlock D k r start b) = b

end Sys2Proof.Machine
end

