-- ==== Sys2Proof/WellFormed.lean ====
section
/-! DEFINITION. When a term describes something the spec admits: a command with the fields its row has, a transaction
the host can issue, a profile record within R201 to R204, a descriptor within R140 to R147, an instance within R9. -/

namespace Sys2Proof

/-- `reservedHigh` stands for words with a bit of [31:4] set (R112); every other command has no field. -/
def Instr.wf : Instr → Bool
  | .nop => true
  | .encrypt => true
  | .decrypt => true
  | .primEnc => true
  | .primDec => true
  | .primPerm => true
  | .zeroize => true
  | .reservedHash => true
  | .reserved8 => true
  | .reserved9 => true
  | .reservedA => true
  | .reservedB => true
  | .reservedC => true
  | .reservedD => true
  | .reservedE => true
  | .reservedF => true
  | .reservedHigh high _ => high != 0#28

/-- A transaction the host has a move for: not wider than 32 bits (spec/70_reset_and_hazards.md R355). -/
def Txn.wf (t : Txn) : Bool := decide (t.width ≤ 32)

/-- The eight constants in the order of R170's indices. -/
def DomConstants.toList (d : DomConstants) : Bytes :=
  [d.adNonfinal, d.adFinalFull, d.adFinalPartial, d.adEmpty,
   d.msgNonfinal, d.msgFinalFull, d.msgFinalPartial, d.msgEmpty]

/-- Law DOM-DISTINCT (R170). -/
def DomConstants.distinct (d : DomConstants) : Bool := decide d.toList.Nodup

/-- The ranges a family of the source has (R201), and the source table's lengths for ids 0x01 to 0x06 (R204). -/
def Profile.sourceSizes (P : Profile) : Bool :=
  decide (16 ≤ P.keyLen ∧ P.keyLen ≤ 32 ∧ 8 ≤ P.nonceLen ∧ P.nonceLen ≤ 32 ∧ 8 ≤ P.tagLen ∧ P.tagLen ≤ 32) &&
  match Config.sourceLengths P.id.toNat with
  | none => true
  | some lens => decide (lens = (P.keyLen, P.nonceLen, P.tagLen, P.unitAd, P.unitMsg))

/-- A profile record an instance with `S_MAX = sMax` may hold: law SIZES (R202), DOM-DISTINCT (R170), an id that may
name a family (R116), and TOY's record under TOY's id (R203, R202). -/
def Profile.wf (sMax : Nat) (P : Profile) : Bool :=
  decide (1 ≤ P.id.toNat ∧ P.id.toNat ≤ 0x7F) &&
  decide (1 ≤ P.unitAd ∧ P.unitAd ≤ Config.unitMax ∧ 1 ≤ P.unitMsg ∧ P.unitMsg ≤ Config.unitMax) &&
  decide (1 ≤ P.stateBytes ∧ P.stateBytes ≤ sMax) &&
  P.dom.distinct &&
  (if P.id = Config.toyId then decide (P = Config.toyProfile) else P.sourceSizes)

/-- A descriptor an instance may hold: the ranges of R140, an id that names a primitive (R117), and the fixed
descriptors of R146 and R147 under their ids.
DESIGN CHOICE (log entry 21), safe: under ids 0x02 to 0x10 either kind is admitted. R117's table gives a kind for each,
and R140, R145 and D11 leave every field of those descriptors OPEN; the model follows the latter. -/
def PrimDesc.wf (D : PrimDesc) : Bool :=
  decide ((1 ≤ D.id.toNat ∧ D.id.toNat ≤ 0x10) ∨ D.id = Config.toyId) &&
  decide (1 ≤ D.blockBytes ∧ D.blockBytes ≤ Config.pblkMax ∧ D.keyBytes ≤ 32) &&
  decide (1 ≤ D.maxRounds ∧ D.maxRounds ≤ 255 ∧ 1 ≤ D.defaultRounds ∧ D.defaultRounds ≤ D.maxRounds) &&
  (D.kind != .permutation || (D.keyBytes == 0 && !D.hasDec)) &&
  (D.id != Config.toyId || D == Config.toyfDesc) &&
  (D.id != Config.skinnyId || D == Config.skinnyDesc)

/-- An instance within R9: BUF_SIZE, the two ROMs as sets of records, TOY and TOYF present. -/
def Params.wf (p : Params) : Bool :=
  decide (p.bufSize % 4 = 0 ∧ 64 ≤ p.bufSize ∧ p.bufSize ≤ 32768) &&
  decide ((p.families.map Profile.id).Nodup) &&
  decide ((p.prims.map PrimDesc.id).Nodup) &&
  p.families.all (Profile.wf p.sMax) &&
  p.prims.all PrimDesc.wf &&
  p.families.contains Config.toyProfile &&
  p.prims.contains Config.toyfDesc

end Sys2Proof
end

