-- ==== Sys2Proof/Safety.lean ====
section
/-! DEFINITION. The terms the statements use, and what a safe run is: the invariant the spec's rules give (which (PHASE, OP) pairs are reachable,
spec/42_engine.md R206; what the internal registers hold in each phase, spec/10_state.md R60 to R73; what CHECK has
established, R207, spec/40_primitive.md R150), and the outcomes a safe step has (spec/60_exceptions.md R310, R328). -/

namespace Sys2Proof.Machine

/-- The eleven operand registers hold the same values (R54). -/
def SameOperands (s t : State) : Prop :=
  t.family = s.family ∧ t.keyLen = s.keyLen ∧ t.nonceLen = s.nonceLen ∧ t.keyPtr = s.keyPtr ∧
  t.noncePtr = s.noncePtr ∧ t.adPtr = s.adPtr ∧ t.adLen = s.adLen ∧ t.inPtr = s.inPtr ∧ t.inLen = s.inLen ∧
  t.outPtr = s.outPtr ∧ t.psel = s.psel ∧ t.rounds = s.rounds ∧ t.start = s.start

/-- The internal registers that hold data, but for OP, are 0 (R73, R231). -/
def DataInternalsZero (s : State) : Prop :=
  s.st = zeros s.params.sMax ∧ s.kl = zeros Config.latchBytes ∧ s.nl = zeros Config.latchBytes ∧
  s.tc = zeros Config.latchBytes ∧ s.ts = zeros Config.latchBytes ∧ s.mask = 0#8 ∧ s.adOff = 0#32 ∧
  s.mOff = 0#32 ∧ s.mLen = 0#32

/-- Nothing but operand registers, and the model's record of the response, differs. -/
def OnlyOperandsChanged (s t : State) : Prop :=
  t = { s with
    family := t.family
    keyLen := t.keyLen
    nonceLen := t.nonceLen
    keyPtr := t.keyPtr
    noncePtr := t.noncePtr
    adPtr := t.adPtr
    adLen := t.adLen
    inPtr := t.inPtr
    inLen := t.inLen
    outPtr := t.outPtr
    psel := t.psel
    rounds := t.rounds
    start := t.start
    response := .written }

/-- Every internal register is 0 (R73, R231). -/
def InternalsZero (s : State) : Prop := DataInternalsZero s ∧ s.op = 0#4

/-- OP of ENCRYPT and of DECRYPT (R111). -/
def Dir.op : Dir → BitVec 4
  | .enc => 0x1#4
  | .dec => 0x2#4

/-- OP of the raw primitive commands (R111). -/
def PrimOp.op : PrimOp → BitVec 4
  | .enc => 0x3#4
  | .dec => 0x4#4
  | .perm => 0x5#4

/-- The (PHASE, OP) pairs of R206, for BUSY = 1. -/
def reachablePair (ph : Phase) (op : BitVec 4) : Bool :=
  match ph with
  | .idle => false
  | .check => op != 0#4
  | .init => op == 1#4 || op == 2#4
  | .ad => op == 1#4 || op == 2#4
  | .msg => op == 1#4 || op == 2#4
  | .final => op == 1#4 || op == 2#4
  | .verify => op == 2#4
  | .scrub => op == 2#4
  | .wipe => true
  | .prim => op == 3#4 || op == 4#4 || op == 5#4
  | .bufclr => op == 6#4 || op == 0#4

/-- RESULT and DETAIL agree (R118, R278). -/
def outcomeAgrees (r : Result) (d : Detail) : Bool :=
  match r with
  | .ok => d == .none
  | .invalidParameters => d != .none && d != .tagMismatch
  | .authenticationFailure => d == .tagMismatch

/-- Whether a phase lies between a passed CHECK of ENCRYPT or DECRYPT and its WIPE (R206). -/
def aeadPhase : Phase → Bool
  | .init => true
  | .ad => true
  | .msg => true
  | .final => true
  | .verify => true
  | .scrub => true
  | .idle => false
  | .check => false
  | .wipe => false
  | .prim => false
  | .bufclr => false

/-- A position in a phase of length `len` from which the classifier may be called (R174): bytes left, or the one step
of an empty phase. -/
def midPhase (len off : Nat) : Prop := off < len ∨ (len = 0 ∧ off = 0)

/-- Where ADOFF and MOFF stand in each phase (R70, R211). -/
def positionOk (s : State) : Prop :=
  match s.phase with
  | .init => s.adOff = 0#32 ∧ s.mOff = 0#32
  | .ad => midPhase s.adLen.toNat s.adOff.toNat ∧ s.mOff = 0#32
  | .msg => s.adOff = s.adLen ∧ midPhase s.mLen.toNat s.mOff.toNat
  | _ => s.adOff = s.adLen ∧ s.mOff = s.mLen

/-- What the internal registers hold between a passed CHECK and WIPE (R60 to R65, R69). -/
structure AeadRunning (d : Dir) (P : Profile) (s : State) : Prop where
  /-- Every check of R207 still passes. -/
  checked : aeadCheck d s = .ok P
  /-- MLEN is the message length (R69, R208). -/
  mLen : s.mLen.toNat = messageLen d P s
  /-- ADOFF and MOFF (R70). -/
  position : positionOk s
  /-- ST above `stateBytes` is 0 (R60), and all of it before INIT (R210). -/
  st : s.st.drop P.stateBytes = zeros (s.params.sMax - P.stateBytes)
  /-- ST is 0 before INIT (R210). -/
  stInit : s.phase = .init → s.st = zeros s.params.sMax
  /-- KL above `keyLen` is 0 (R61). -/
  kl : s.kl.drop P.keyLen = zeros (Config.latchBytes - P.keyLen)
  /-- NL above `nonceLen` is 0 (R62). -/
  nl : s.nl.drop P.nonceLen = zeros (Config.latchBytes - P.nonceLen)
  /-- TC above `tagLen` is 0 (R63). -/
  tc : s.tc.drop P.tagLen = zeros (Config.latchBytes - P.tagLen)
  /-- TS above `tagLen` is 0, and all of it for ENCRYPT (R64). -/
  ts : s.ts.drop P.tagLen = zeros (Config.latchBytes - P.tagLen) ∧ (d = .enc → s.ts = zeros Config.latchBytes)
  /-- MASK is 0 before VERIFY, and 0x00 or 0xFF after it (R65, R251). -/
  mask : s.mask = 0#8 ∨ (s.phase = .scrub ∧ s.mask = 0xFF#8)

/-- The invariant of the machine. -/
structure MachineInv (s : State) : Prop where
  /-- The instance is within R9. -/
  params : s.params.wf = true
  /-- BUF is in canonical form. -/
  bufWf : s.buf.wf = true
  /-- BUF holds nothing at or above `BUF_SIZE` (R74). -/
  bufIn : s.buf.all (fun c => decide (c.1 < s.params.bufSize)) = true
  /-- The widths of the internal byte-string registers (R60 to R64). -/
  widths : s.st.length = s.params.sMax ∧ s.kl.length = Config.latchBytes ∧ s.nl.length = Config.latchBytes ∧
    s.tc.length = Config.latchBytes ∧ s.ts.length = Config.latchBytes
  /-- PHASE is IDLE and every internal register 0 whenever BUSY = 0 (R35, R73). -/
  idle : s.busy = false → s.phase = .idle ∧ InternalsZero s
  /-- The (PHASE, OP) pair is one of R206's, and DONE is 0, whenever BUSY = 1 (R206, R317). -/
  running : s.busy = true → reachablePair s.phase s.op = true ∧ s.done = false
  /-- RESULT and DETAIL agree (R278). -/
  outcome : outcomeAgrees s.result s.detail = true
  /-- RESULT, DETAIL and OUT_LEN are cleared from acceptance or reset until the step that goes to WIPE (R270, R350). -/
  pending : s.busy = true → s.phase ≠ .wipe → s.result = .ok ∧ s.detail = .none ∧ s.outLen = 0#32
  /-- Before a check has passed no latch holds anything (R209, R231). -/
  fresh : s.busy = true → s.phase = .check ∨ s.phase = .bufclr ∨ s.phase = .prim → DataInternalsZero s
  /-- Between a passed CHECK and WIPE (R207, R208). -/
  aead : ∀ d : Dir, s.busy = true → s.op = d.op → aeadPhase s.phase = true → ∃ P, AeadRunning d P s
  /-- In PRIM the checks of R150 still pass. -/
  prim : ∀ o : PrimOp, s.busy = true → s.op = o.op → s.phase = .prim → ∃ D, primCheck o s = .ok D

/-- What a safe step ends in: a next state, or the fault of a host transaction (R310, R328). -/
def SafeOutcome : Out → Prop
  | .next _ => True
  | .fault f => f = .busErr
  | .refused _ => False

/-! The terms the statements use. -/

/-- `s` with an event to happen next; the step consumes it. -/
def State.withEvent (s : State) (e : Event) : State := { s with agenda := e :: s.agenda }

/-- A 32-bit transaction at a host register's offset (R81, R85). -/
def regTxn (s : State) (r : HostReg) (op : BusOp) : Txn :=
  { op := op, width := 32, addr := s.params.adeBase + r.offset }

/-- A transaction at a host offset (R81). -/
def offTxn (s : State) (off width : Nat) (op : BusOp) : Txn :=
  { op := op, width := width, addr := s.params.adeBase + off }

/-- The eleven operand registers (R54). -/
def HostReg.isOperand : HostReg → Bool
  | .family => true
  | .keyLen => true
  | .nonceLen => true
  | .keyPtr => true
  | .noncePtr => true
  | .adPtr => true
  | .adLen => true
  | .inPtr => true
  | .inLen => true
  | .outPtr => true
  | .primCfg => true
  | _ => false

/-- The read-only registers (R31, R32, R47 to R52). -/
def HostReg.isReadOnly : HostReg → Bool
  | .id => true
  | .version => true
  | .err => true
  | .outLen => true
  | .bufSize => true
  | .famInfo0 => true
  | .famInfo1 => true
  | .primInfo => true
  | _ => false

/-- The implemented bits of an operand register (R36 to R46). -/
def HostReg.implemented : HostReg → Word
  | .family => 0x000000FF#32
  | .keyLen => 0x000000FF#32
  | .nonceLen => 0x000000FF#32
  | .primCfg => 0x00FFFFFF#32
  | _ => 0xFFFFFFFF#32

/-- A width of 8, 16 or 32 bits with the offset aligned to it (R85). -/
def Aligned (off width : Nat) : Prop := width = 8 ∨ (width = 16 ∧ off % 2 = 0) ∨ (width = 32 ∧ off % 4 = 0)

/-- An offset of the register region (R81). -/
def InRegisters (off : Nat) : Prop := off < 0x100

/-- An offset of the BUF window (R81). -/
def InWindow (s : State) (off : Nat) : Prop := 0x8000 ≤ off ∧ off < 0x8000 + s.params.bufSize

/-- A legal access of the BUF window (R85). -/
def WindowAccess (s : State) (off width : Nat) : Prop :=
  InWindow s off ∧ Aligned off width ∧ off + width / 8 ≤ 0x8000 + s.params.bufSize

/-- A legal access of an unmapped offset (R81, R85). -/
def UnmappedAccess (s : State) (off width : Nat) : Prop :=
  off < 0x10000 ∧ ¬ InRegisters off ∧ ¬ InWindow s off ∧ Aligned off width

/-- A legal host transaction at an offset of the ADE (R85). -/
def LegalAccess (s : State) (off width : Nat) : Prop :=
  (InRegisters off ∧ width = 32 ∧ off % 4 = 0) ∨ WindowAccess s off width ∨ UnmappedAccess s off width

/-- Every byte of BUF outside the `n` bytes from `a` reads as before. -/
def SameOutside (s t : State) (a n : Nat) : Prop := ∀ b : Nat, b < a ∨ a + n ≤ b → t.buf.read b = s.buf.read b

/-- The command of a direction. -/
def Dir.instr : Dir → Instr
  | .enc => .encrypt
  | .dec => .decrypt

/-- The command of a raw primitive direction. -/
def PrimOp.instr : PrimOp → Instr
  | .enc => .primEnc
  | .dec => .primDec
  | .perm => .primPerm

/-- The code of the first check that fails. -/
def firstFailing : List (Detail × Bool) → Option Detail
  | [] => none
  | (e, failed) :: rest => if failed then some e else firstFailing rest

/-- A non-empty region that is not inside BUF (R207). -/
def outside (s : State) (ptr : Word) (len : Nat) : Bool :=
  decide (0 < len) && decide (ptr.toNat + len > s.params.bufSize)

/-- The checks of ENCRYPT and DECRYPT after the family check, in the order of R316, each with whether it fails (R207). -/
def aeadFailures (d : Dir) (P : Profile) (s : State) : List (Detail × Bool) :=
  let m := if d = .dec then s.inLen.toNat - P.tagLen else s.inLen.toNat
  let o := if d = .dec then m else m + P.tagLen
  [(.badKeyLen, decide (s.keyLen.toNat ≠ P.keyLen)),
   (.badNonceLen, decide (s.nonceLen.toNat ≠ P.nonceLen)),
   (.shortInput, decide (d = .dec) && decide (s.inLen.toNat < P.tagLen)),
   (.adTooLong, P.maxAd.any (fun c => decide (s.adLen.toNat > c))),
   (.msgTooLong, P.maxMsg.any (fun c => decide (m > c))),
   (.bounds, outside s s.keyPtr P.keyLen || outside s s.noncePtr P.nonceLen || outside s s.adPtr s.adLen.toNat ||
     outside s s.inPtr s.inLen.toNat || outside s s.outPtr o),
   (.overlap, decide (0 < m) && s.inPtr != s.outPtr && decide (s.inPtr.toNat < s.outPtr.toNat + m) &&
     decide (s.outPtr.toNat < s.inPtr.toNat + m))]

/-- The checks of the raw primitive commands after the primitive is found, in the order of R316 (R150). -/
def primFailures (o : PrimOp) (D : PrimDesc) (s : State) : List (Detail × Bool) :=
  let nr := if s.rounds = 0#8 then D.defaultRounds else s.rounds.toNat
  [(.badPrim, decide (o = .enc) && decide (D.kind ≠ .blockCipher)),
   (.badPrim, decide (o = .dec) && !(decide (D.kind = .blockCipher) && D.hasDec)),
   (.badPrim, decide (o = .perm) && decide (D.kind ≠ .permutation)),
   (.badRounds, decide (nr < 1) || decide (s.start.toNat + nr > D.maxRounds)),
   (.badKeyLen, decide (o ≠ .perm) && decide (s.keyLen.toNat ≠ D.keyBytes)),
   (.badBlockLen, decide (s.inLen.toNat ≠ D.blockBytes)),
   (.bounds, decide (o ≠ .perm) && outside s s.keyPtr D.keyBytes),
   (.bounds, decide (s.inPtr.toNat + D.blockBytes > s.params.bufSize)),
   (.bounds, decide (s.outPtr.toNat + D.blockBytes > s.params.bufSize))]

/-- `P` is the profile FAMILY selects (R36, R72). -/
def Selects (s : State) (P : Profile) : Prop := P ∈ s.params.families ∧ P.id = s.family

/-- `D` is the descriptor PRIM_CFG.PSEL selects (R46, R72). -/
def SelectsPrim (s : State) (D : PrimDesc) : Prop := D ∈ s.params.prims ∧ D.id = s.psel

/-- The sequencer is about to take a step of `i` in a phase (R206). -/
def Running (i : Instr) (ph : Phase) (s : State) : Prop := s.busy = true ∧ s.op = i.latch ∧ s.phase = ph

/-- A state in which the host may write CMD, with no event of the host pending after it. -/
def Ready (s : State) : Prop := s.params.wf = true ∧ s.buf.wf = true ∧ s.busy = false ∧ s.agenda = []

/-- Every check of R207 passes, for the profile `P`. -/
def AeadPasses (d : Dir) (P : Profile) (s : State) : Prop := Selects s P ∧ firstFailing (aeadFailures d P s) = none

/-- Every check of R150 passes, for the descriptor `D`. -/
def PrimPasses (o : PrimOp) (D : PrimDesc) (s : State) : Prop :=
  SelectsPrim s D ∧ firstFailing (primFailures o D s) = none

/-- The CMD write of a command's word (R110, R123). -/
def State.withCommand (s : State) (i : Instr) : State := s.withEvent (.bus (regTxn s .cmd (.write (encode i))))

/-- A command has completed (R277): idle, DONE set, every internal register 0, and nothing of `s` changed but BUF, the
outcome and the model's own record of the CMD write's response. -/
def Completed (s t : State) (r : Result) (e : Detail) (len : Nat) : Prop :=
  t.result = r ∧ t.detail = e ∧ t.outLen.toNat = len ∧ InternalsZero t ∧
  t = { s with
    busy := false
    done := true
    result := t.result
    phase := .idle
    detail := t.detail
    outLen := t.outLen
    st := t.st
    kl := t.kl
    nl := t.nl
    tc := t.tc
    ts := t.ts
    mask := t.mask
    op := t.op
    adOff := t.adOff
    mOff := t.mOff
    mLen := t.mLen
    buf := t.buf
    response := .written }

/-- The check of a command fails first with the code `e` (R311, R316). -/
def CheckFails (i : Instr) (s : State) (e : Detail) : Prop :=
  (∃ d : Dir, i = d.instr ∧
    (((∀ P ∈ s.params.families, P.id ≠ s.family) ∧ e = .badFamily) ∨
     ∃ P, Selects s P ∧ firstFailing (aeadFailures d P s) = some e)) ∨
  (∃ o : PrimOp, i = o.instr ∧
    (((∀ D ∈ s.params.prims, D.id ≠ s.psel) ∧ e = .badPrim) ∨
     ∃ D, SelectsPrim s D ∧ firstFailing (primFailures o D s) = some e)) ∨
  (i.isReserved = true ∧ e = .badOpcode)

/-- From `s`, whose next event is a CMD write, the command completes in `t` after exactly `n` steps of the sequencer
(R206): one step of the machine accepts it, and BUSY is 1 from then until the last of the `n`. -/
def CompletesIn (s : State) (n : Nat) (t : State) : Prop :=
  Sys2Proof.core.run (n + 1) s = .next t ∧ t.busy = false ∧
  ∀ k : Nat, k < n → ∃ u : State, Sys2Proof.core.run (k + 1) s = .next u ∧ u.busy = true

/-- The sequencer steps of ENCRYPT and of DECRYPT when the check passes (R206). -/
def aeadSteps (d : Dir) (P : Profile) (s : State) : Nat :=
  match d with
  | .enc => 1 + 1 + phaseSteps s.adLen.toNat P.unitAd + phaseSteps s.inLen.toNat P.unitMsg + 1 + 1
  | .dec => 1 + 1 + phaseSteps s.adLen.toNat P.unitAd + phaseSteps (s.inLen.toNat - P.tagLen) P.unitMsg + 1 + 2 + 1

/-- The reset column of R76: the state a reset of `s` leaves. BUF is unspecified there. -/
def AtReset (s t : State) : Prop :=
  t.params = s.params ∧ t.ie = false ∧ t.busy = true ∧ t.done = false ∧ t.result = .ok ∧ t.phase = .bufclr ∧
  t.hostErr = false ∧ t.detail = .none ∧ t.family = 0#8 ∧ t.keyLen = 0#8 ∧ t.nonceLen = 0#8 ∧ t.keyPtr = 0#32 ∧
  t.noncePtr = 0#32 ∧ t.adPtr = 0#32 ∧ t.adLen = 0#32 ∧ t.inPtr = 0#32 ∧ t.inLen = 0#32 ∧ t.outPtr = 0#32 ∧
  t.psel = 0#8 ∧ t.rounds = 0#8 ∧ t.start = 0#8 ∧ t.outLen = 0#32 ∧ InternalsZero t ∧ t.agenda = s.agenda ∧
  statusWord t = 0x000000A1#32 ∧ irq t = false

/-- What may depend on nothing but the public inputs of R372: all of the state but the bytes of BUF and of the latches,
MASK, RESULT and DETAIL, and what the host read. -/
def PublicEqual (s t : State) : Prop :=
  SameOperands s t ∧ t.params = s.params ∧ t.ie = s.ie ∧ t.busy = s.busy ∧ t.done = s.done ∧ t.phase = s.phase ∧
  t.hostErr = s.hostErr ∧ t.outLen = s.outLen ∧ t.op = s.op ∧ t.adOff = s.adOff ∧ t.mOff = s.mOff ∧
  t.mLen = s.mLen ∧ t.agenda = s.agenda

/-- `t` is `s` but for the data the host cannot read (10_state.md section 3). -/
def SameButHidden (s t : State) : Prop :=
  t = { s with
    st := t.st
    kl := t.kl
    nl := t.nl
    tc := t.tc
    ts := t.ts
    mask := t.mask }

/-- `t` is `s` but for that data and the bytes of BUF. -/
def SameButSecret (s t : State) : Prop :=
  t = { s with
    st := t.st
    kl := t.kl
    nl := t.nl
    tc := t.tc
    ts := t.ts
    mask := t.mask
    buf := t.buf }

end Sys2Proof.Machine
end

