-- ==== Sys2Proof/Certificates/Slice0/Obligations.lean ====
section
/-! DEFINITION. The statements about the ADE, for the provers. Each docstring names the rule of spec/ it formalises, or says
on what it rests. -/

section
open Sys2Proof Sys2Proof.Machine

/-! The command word. -/

/-- spec/30_encoding.md R110, R111, R112: decoding what the encoder writes gives the command back, as a word and as bytes
with any bytes after it. -/
def Obligations.DecodeOfEncode : Prop :=
  ∀ i : Instr, i.wf = true →
    decode (encode i) = i ∧ ∀ rest : Bytes, decodeBytes (encodeBytes i ++ rest) = .ok (i, rest)

/-- spec/30_encoding.md R113: every word is NOP, one of the six operations or a reserved encoding, and its own encoding;
while BUSY = 1 a CMD write is dropped whatever its word. -/
def Obligations.DecodingIsTotal : Prop :=
  (∀ w : Word,
    (decode w).wf = true ∧ encode (decode w) = w ∧
    (decode w = .nop ↔ w = 0x00000000#32) ∧
    (decode w = .encrypt ↔ w = 0x00000001#32) ∧
    (decode w = .decrypt ↔ w = 0x00000002#32) ∧
    (decode w = .primEnc ↔ w = 0x00000003#32) ∧
    (decode w = .primDec ↔ w = 0x00000004#32) ∧
    (decode w = .primPerm ↔ w = 0x00000005#32) ∧
    (decode w = .zeroize ↔ w = 0x00000006#32) ∧
    ((decode w).isReserved = true ↔ 7 ≤ w.toNat)) ∧
  ∀ (s : State) (w : Word), s.busy = true →
    step (s.withEvent (.bus (regTxn s .cmd (.write w)))) =
      .next { s with
        hostErr := true
        response := .written }

/-- spec/30_encoding.md R111, R112: words of the opcode map, written out, decode to the commands they name. -/
def Obligations.WrittenWords : Prop :=
  decode 0b00000000000000000000000000000000#32 = .nop ∧
  decode 0b00000000000000000000000000000001#32 = .encrypt ∧
  decode 0b00000000000000000000000000000010#32 = .decrypt ∧
  decode 0b00000000000000000000000000000101#32 = .primPerm ∧
  decode 0b00000000000000000000000000000110#32 = .zeroize ∧
  decode 0b00000000000000000000000000000111#32 = .reservedHash ∧
  decode 0b00000000000000000000000000001111#32 = .reservedF ∧
  decode 0b00000000000000000000000000010000#32 = .reservedHigh 1#28 0#4 ∧
  decodeBytes [0x03#8, 0x00#8, 0x00#8, 0x00#8] = .ok (.primEnc, []) ∧
  decodeBytes [0x04#8, 0x00#8, 0x00#8, 0x80#8] = .ok (.reservedHigh 0x8000000#28 4#4, [])

/-- spec/44_commands.md R270, spec/30_encoding.md R110: with BUSY = 0, the step of a CMD write runs the command its word
decodes to, at the state that differs only by the record that the write was answered. -/
def Obligations.StepRunsTheWrittenCommand : Prop :=
  ∀ (s : State) (w : Word), s.busy = false →
    decodeBytes (bytesOfWord w) = .ok (decode w, []) ∧
    step (s.withEvent (.bus (regTxn s .cmd (.write w)))) = exec (decode w) { s with response := .written }

/-- spec/42_engine.md R206: the sequencer has a step if and only if BUSY = 1, and it is the step of the command OP names; it
happens at a turn of its own, or by itself when no event is pending. -/
def Obligations.StepRunsTheLatchedCommand : Prop :=
  (∀ (s : State) (i : Instr), s.busy = true → i.wf = true → i ≠ .nop → s.op = i.latch →
    step (s.withEvent .turn) = exec i s ∧ (s.agenda = [] → step s = exec i s)) ∧
  ∀ s : State, s.busy = false → step (s.withEvent .turn) = .next s ∧ (s.agenda = [] → step s = .next s)

/-! Acceptance. -/

/-- spec/44_commands.md R270: a CMD write of any word but 0 with BUSY = 0 is accepted, and nothing else changes. -/
def Obligations.CommandAccepted : Prop :=
  (∀ (s : State) (w : Word), s.busy = false → w ≠ 0x00000000#32 →
    step (s.withEvent (.bus (regTxn s .cmd (.write w)))) =
      .next { s with
        op := if w.extractLsb' 4 28 = 0#28 then w.extractLsb' 0 4 else 0xF#4
        busy := true
        done := false
        result := .ok
        detail := .none
        outLen := 0#32
        phase := .check
        response := .written }) ∧
  ∀ (s : State) (i : Instr), s.busy = false → i.wf = true → i ≠ .nop →
    exec i s =
      .next { s with
        op := i.latch
        busy := true
        done := false
        result := .ok
        detail := .none
        outLen := 0#32
        phase := .check }

/-- spec/44_commands.md R272: NOP does nothing while BUSY = 0; while BUSY = 1 the write is dropped and only HOSTERR is
set. -/
def Obligations.NopDoesNothing : Prop :=
  (∀ s : State, s.busy = false →
    exec .nop s = .next s ∧
    step (s.withEvent (.bus (regTxn s .cmd (.write 0x00000000#32)))) = .next { s with response := .written }) ∧
  ∀ s : State, s.busy = true →
    exec .nop s = .next { s with hostErr := true } ∧
    step (s.withEvent (.bus (regTxn s .cmd (.write 0x00000000#32)))) =
      .next { s with
        hostErr := true
        response := .written }

/-! The steps of ENCRYPT and DECRYPT. -/

/-- spec/42_engine.md R207, R208: ENCRYPT's and DECRYPT's CHECK step, every check passing, latches the key, the nonce, the
message length and (DECRYPT) the supplied tag, and goes to INIT; nothing else changes. -/
def Obligations.AeadCheckPasses : Prop :=
  ∀ (s : State) (P : Profile), s.params.wf = true →
    (Running .encrypt .check s → AeadPasses .enc P s →
      exec .encrypt s =
        .next { s with
          kl := s.buf.readBytes s.keyPtr.toNat P.keyLen ++ zeros (32 - P.keyLen)
          nl := s.buf.readBytes s.noncePtr.toNat P.nonceLen ++ zeros (32 - P.nonceLen)
          mLen := s.inLen
          adOff := 0#32
          mOff := 0#32
          phase := .init }) ∧
    (Running .decrypt .check s → AeadPasses .dec P s →
      exec .decrypt s =
        .next { s with
          kl := s.buf.readBytes s.keyPtr.toNat P.keyLen ++ zeros (32 - P.keyLen)
          nl := s.buf.readBytes s.noncePtr.toNat P.nonceLen ++ zeros (32 - P.nonceLen)
          mLen := BitVec.ofNat 32 (s.inLen.toNat - P.tagLen)
          ts := s.buf.readBytes (s.inPtr.toNat + (s.inLen.toNat - P.tagLen)) P.tagLen ++ zeros (32 - P.tagLen)
          adOff := 0#32
          mOff := 0#32
          phase := .init })

/-- spec/60_exceptions.md R313: a CHECK step whose check fails first with the code `e`, in the order of R316, writes RESULT,
DETAIL, OUT_LEN and PHASE and nothing else, whatever the command. -/
def Obligations.FailingCheck : Prop :=
  ∀ (s : State) (i : Instr) (e : Detail), s.params.wf = true → i.wf = true → Running i .check s → CheckFails i s e →
    exec i s =
      .next { s with
        result := .invalidParameters
        detail := e
        outLen := 0#32
        phase := .wipe }

/-- spec/42_engine.md R210: INIT. -/
def Obligations.InitStep : Prop :=
  ∀ (d : Dir) (P : Profile) (s : State), s.params.wf = true → Selects s P → Running d.instr .init s →
    exec d.instr s =
      .next { s with
        st := famInit P (s.kl.take P.keyLen) (s.nl.take P.nonceLen) ++ zeros (s.params.sMax - P.stateBytes)
        phase := .ad }

/-- spec/42_engine.md R212: AD. Nothing is stored. -/
def Obligations.AdStep : Prop :=
  ∀ (d : Dir) (P : Profile) (s : State), s.params.wf = true → Selects s P → Running d.instr .ad s →
    midPhase s.adLen.toNat s.adOff.toNat →
    (s.adLen.toNat = 0 ∨ s.adPtr.toNat + s.adLen.toNat ≤ s.params.bufSize) →
    let c := classify s.adLen.toNat s.adOff.toNat P.unitAd .ad
    let x := s.buf.readBytes (s.adPtr.toNat + s.adOff.toNat) c.1
    ∃ t : State, exec d.instr s = .next t ∧ t.adOff.toNat = s.adOff.toNat + c.1 ∧
      t = { s with
        st := famAbsorb P (s.st.take P.stateBytes) (pad x P.unitAd P.padMode) c.1 (domByte P c.2)
          ++ s.st.drop P.stateBytes
        adOff := t.adOff
        phase := if t.adOff.toNat ≥ s.adLen.toNat then .msg else .ad }

/-- spec/42_engine.md R214: MSG of ENCRYPT. The bytes stored are the classifier's count, at OUT_PTR + MOFF. -/
def Obligations.MsgStepOfEncrypt : Prop :=
  ∀ (P : Profile) (s : State), s.params.wf = true → s.buf.wf = true → Selects s P → Running .encrypt .msg s →
    midPhase s.mLen.toNat s.mOff.toNat →
    (s.mLen.toNat = 0 ∨ s.inPtr.toNat + s.mLen.toNat ≤ s.params.bufSize) →
    (s.mLen.toNat = 0 ∨ s.outPtr.toNat + s.mLen.toNat ≤ s.params.bufSize) →
    let c := classify s.mLen.toNat s.mOff.toNat P.unitMsg .msg
    let x := s.buf.readBytes (s.inPtr.toNat + s.mOff.toNat) c.1
    let r := famEncBlock P (s.st.take P.stateBytes) (pad x P.unitMsg P.padMode) c.1 (domByte P c.2)
    ∃ t : State, exec .encrypt s = .next t ∧
      t.buf.readBytes (s.outPtr.toNat + s.mOff.toNat) c.1 = r.2 ∧
      SameOutside s t (s.outPtr.toNat + s.mOff.toNat) c.1 ∧
      t.mOff.toNat = s.mOff.toNat + c.1 ∧
      t = { s with
        buf := t.buf
        st := r.1 ++ s.st.drop P.stateBytes
        mOff := t.mOff
        phase := if t.mOff.toNat ≥ s.mLen.toNat then .final else .msg }

/-- spec/42_engine.md R215: MSG of DECRYPT. The bytes stored are the classifier's count, at OUT_PTR + MOFF. -/
def Obligations.MsgStepOfDecrypt : Prop :=
  ∀ (P : Profile) (s : State), s.params.wf = true → s.buf.wf = true → Selects s P → Running .decrypt .msg s →
    midPhase s.mLen.toNat s.mOff.toNat →
    (s.mLen.toNat = 0 ∨ s.inPtr.toNat + s.mLen.toNat ≤ s.params.bufSize) →
    (s.mLen.toNat = 0 ∨ s.outPtr.toNat + s.mLen.toNat ≤ s.params.bufSize) →
    let c := classify s.mLen.toNat s.mOff.toNat P.unitMsg .msg
    let y := s.buf.readBytes (s.inPtr.toNat + s.mOff.toNat) c.1
    let r := famDecBlock P (s.st.take P.stateBytes) y c.1 (domByte P c.2)
    ∃ t : State, exec .decrypt s = .next t ∧
      t.buf.readBytes (s.outPtr.toNat + s.mOff.toNat) c.1 = r.2 ∧
      SameOutside s t (s.outPtr.toNat + s.mOff.toNat) c.1 ∧
      t.mOff.toNat = s.mOff.toNat + c.1 ∧
      t = { s with
        buf := t.buf
        st := r.1 ++ s.st.drop P.stateBytes
        mOff := t.mOff
        phase := if t.mOff.toNat ≥ s.mLen.toNat then .final else .msg }

/-- spec/42_engine.md R220: FINAL. ENCRYPT stores the tag after the ciphertext and finishes; DECRYPT stores nothing and goes
on to VERIFY. -/
def Obligations.FinalStep : Prop :=
  ∀ (P : Profile) (s : State), s.params.wf = true → s.buf.wf = true → Selects s P →
    let T := famFinalize P (s.st.take P.stateBytes) (s.kl.take P.keyLen) (s.nl.take P.nonceLen)
    (Running .encrypt .final s → s.outPtr.toNat + s.mLen.toNat + P.tagLen ≤ s.params.bufSize →
      ∃ t : State, exec .encrypt s = .next t ∧
        t.buf.readBytes (s.outPtr.toNat + s.mLen.toNat) P.tagLen = T ∧
        SameOutside s t (s.outPtr.toNat + s.mLen.toNat) P.tagLen ∧
        t.outLen.toNat = s.mLen.toNat + P.tagLen ∧
        t = { s with
          buf := t.buf
          tc := T ++ zeros (32 - P.tagLen)
          outLen := t.outLen
          result := .ok
          detail := .none
          phase := .wipe }) ∧
    (Running .decrypt .final s →
      exec .decrypt s =
        .next { s with
          tc := T ++ zeros (32 - P.tagLen)
          phase := .verify })

/-- spec/43_verifier.md R252: VERIFY. -/
def Obligations.VerifyStep : Prop :=
  ∀ (P : Profile) (s : State), s.params.wf = true → Selects s P → Running .decrypt .verify s →
    exec .decrypt s =
      .next { s with
        mask := ctMask s.tc s.ts P.tagLen
        phase := .scrub }

/-- spec/43_verifier.md R254: SCRUB rewrites the MLEN payload bytes ANDed with MASK and reports the outcome by MASK[0]. -/
def Obligations.ScrubStep : Prop :=
  ∀ s : State, s.buf.wf = true → Running .decrypt .scrub s →
    (s.mLen.toNat = 0 ∨ s.outPtr.toNat + s.mLen.toNat ≤ s.params.bufSize) →
    let g := (s.mask.getLsbD 0).toNat
    ∃ t : State, exec .decrypt s = .next t ∧
      (∀ k : Nat, k < s.mLen.toNat → t.buf.read (s.outPtr.toNat + k) = s.buf.read (s.outPtr.toNat + k) &&& s.mask) ∧
      SameOutside s t s.outPtr.toNat s.mLen.toNat ∧
      t.result.code = 2 * (1 - g) ∧ t.detail.code = 13 * (1 - g) ∧
      t = { s with
        buf := t.buf
        outLen := s.mLen
        result := t.result
        detail := t.detail
        phase := .wipe }

/-- spec/43_verifier.md R251: the comparator's mask is 0xFF where the first `t` bytes agree and 0x00 otherwise. -/
def Obligations.ComparatorMask : Prop :=
  ∀ (a b : Bytes) (t : Nat), 1 ≤ t → t ≤ 32 → t ≤ a.length → t ≤ b.length →
    ctMask a b t = (if a.take t = b.take t then 0xFF#8 else 0x00#8) ∧ (ctEq a b t = true ↔ a.take t = b.take t)

/-! The raw primitive commands. -/

/-- spec/40_primitive.md R150: the CHECK step of PRIM_ENC, PRIM_DEC and PRIM_PERM: the first check that fails, in the rule's
order, takes the parameter-failure path; none failing, the phase becomes PRIM and nothing else changes. -/
def Obligations.PrimCheck : Prop :=
  ∀ (o : PrimOp) (s : State), s.params.wf = true → Running o.instr .check s →
    ((∀ D ∈ s.params.prims, D.id ≠ s.psel) →
      exec o.instr s =
        .next { s with
          result := .invalidParameters
          detail := .badPrim
          outLen := 0#32
          phase := .wipe }) ∧
    ∀ D : PrimDesc, SelectsPrim s D →
      (∀ e : Detail, firstFailing (primFailures o D s) = some e →
        exec o.instr s =
          .next { s with
            result := .invalidParameters
            detail := e
            outLen := 0#32
            phase := .wipe }) ∧
      (firstFailing (primFailures o D s) = none → exec o.instr s = .next { s with phase := .prim })

/-- spec/40_primitive.md R152: the PRIM step reads the block and the key, and stores the primitive's output at OUT_PTR. -/
def Obligations.PrimStep : Prop :=
  ∀ (o : PrimOp) (D : PrimDesc) (s : State), s.params.wf = true → s.buf.wf = true → SelectsPrim s D →
    Running o.instr .prim s →
    s.inPtr.toNat + D.blockBytes ≤ s.params.bufSize → s.outPtr.toNat + D.blockBytes ≤ s.params.bufSize →
    (o ≠ .perm → D.keyBytes = 0 ∨ s.keyPtr.toNat + D.keyBytes ≤ s.params.bufSize) →
    let nr := if s.rounds = 0#8 then D.defaultRounds else s.rounds.toNat
    let b := s.buf.readBytes s.inPtr.toNat D.blockBytes
    let k := s.buf.readBytes s.keyPtr.toNat D.keyBytes
    let y := match o with
      | .enc => primEncBlock D k nr s.start.toNat b
      | .dec => primDecBlock D k nr s.start.toNat b
      | .perm => primPermBlock D nr s.start.toNat b
    ∃ t : State, exec o.instr s = .next t ∧
      t.buf.readBytes s.outPtr.toNat D.blockBytes = y ∧
      SameOutside s t s.outPtr.toNat D.blockBytes ∧
      t.outLen.toNat = D.blockBytes ∧
      t = { s with
        buf := t.buf
        outLen := t.outLen
        result := .ok
        detail := .none
        phase := .wipe }

/-- spec/40_primitive.md R148: the anchor of SKINNY-128-128. -/
def Obligations.SkinnyAnchor : Prop :=
  primEncBlock Config.skinnyDesc
    [0x4f#8, 0x55#8, 0xcf#8, 0xb0#8, 0x52#8, 0x0c#8, 0xac#8, 0x52#8, 0xfd#8, 0x92#8, 0xc1#8, 0x5f#8, 0x37#8, 0x07#8,
      0x3e#8, 0x93#8]
    Config.skinnyDesc.defaultRounds 0
    [0xf2#8, 0x0a#8, 0xdb#8, 0x0e#8, 0xb0#8, 0x8b#8, 0x64#8, 0x8a#8, 0x3b#8, 0x2e#8, 0xee#8, 0xd1#8, 0xf0#8, 0xad#8,
      0xda#8, 0x14#8]
  = [0x22#8, 0xff#8, 0x30#8, 0xd4#8, 0x98#8, 0xea#8, 0x62#8, 0xd7#8, 0xe4#8, 0x5b#8, 0x47#8, 0x6e#8, 0x33#8, 0x67#8,
      0x5b#8, 0x74#8]

/-- Law PRIM-INV (spec/40_primitive.md R142) of the full SKINNY-128-128. The model's choice, log entry 9: its rounds are
R156's, which is informative. -/
def Obligations.SkinnyDecrypts : Prop :=
  ∀ k b : Bytes, k.length = 16 → b.length = 16 →
    primDecBlock Config.skinnyDesc k Config.skinnyDesc.defaultRounds 0
      (primEncBlock Config.skinnyDesc k Config.skinnyDesc.defaultRounds 0 b) = b

/-- spec/40_primitive.md R142: law PRIM-INV holds of every descriptor an instance may hold: `dec` undoes `enc` for every
descriptor with `hasDec`, every legal round pair, every key and every block. The model has the law by the form of its free
value (log entry 8), and for the full SKINNY-128-128 by R156's rounds (log entry 9). -/
def Obligations.PrimInverse : Prop := ∀ D : PrimDesc, D.wf = true → PrimInvLaw D

/-! The steps every command shares. -/

/-- spec/42_engine.md R230: WIPE, the last step of every command. -/
def Obligations.WipeStep : Prop :=
  ∀ (i : Instr) (s : State), i.wf = true → i ≠ .nop → Running i .wipe s →
    exec i s =
      .next { s with
        st := zeros s.params.sMax
        kl := zeros 32
        nl := zeros 32
        tc := zeros 32
        ts := zeros 32
        mask := 0x00#8
        adOff := 0#32
        mOff := 0#32
        mLen := 0#32
        op := 0#4
        busy := false
        done := true
        phase := .idle }

/-- spec/42_engine.md R232: BUFCLR of ZEROIZE, and the clear that follows reset (OP = 0). -/
def Obligations.BufclrStep : Prop :=
  ∀ s : State, s.busy = true → s.phase = .bufclr →
    (s.op = 0x6#4 →
      ∃ t : State, exec .zeroize s = .next t ∧ (∀ a : Nat, t.buf.read a = 0x00#8) ∧
        t = { s with
          buf := t.buf
          outLen := 0#32
          result := .ok
          detail := .none
          phase := .wipe }) ∧
    (s.op = 0x0#4 →
      ∃ t : State, step (s.withEvent .turn) = .next t ∧ (∀ a : Nat, t.buf.read a = 0x00#8) ∧
        t = { s with
          buf := t.buf
          busy := false
          phase := .idle })

/-- spec/44_commands.md R275: ZEROIZE is accepted, its CHECK step only goes to BUFCLR, and after three sequencer steps every
byte of BUF and every internal register is 0, with RESULT = OK. -/
def Obligations.ZeroizeCompletes : Prop :=
  (∀ s : State, Running .zeroize .check s → exec .zeroize s = .next { s with phase := .bufclr }) ∧
  ∀ s : State, Ready s →
    ∃ t : State, CompletesIn (s.withCommand .zeroize) 3 t ∧ (∀ a : Nat, t.buf.read a = 0x00#8) ∧
      Completed s t .ok .none 0

/-- spec/44_commands.md R276: every reserved encoding is accepted, its CHECK step fails with BAD_OPCODE, and it completes
after two sequencer steps with BUF as it was. -/
def Obligations.ReservedEncodings : Prop :=
  ∀ i : Instr, i.wf = true → i.isReserved = true →
    (∀ s : State, Running i .check s →
      exec i s =
        .next { s with
          result := .invalidParameters
          detail := .badOpcode
          outLen := 0#32
          phase := .wipe }) ∧
    ∀ s : State, Ready s →
      ∃ t : State, CompletesIn (s.withCommand i) 2 t ∧ t.buf = s.buf ∧ Completed s t .invalidParameters .badOpcode 0

/-! The padding inserter. -/

/-- spec/41_padding.md R172: the padded block, byte by byte, for each of the three forms. -/
def Obligations.PaddedBlock : Prop :=
  ∀ (x : Bytes) (u : Nat) (mode : PadMode), x.length ≤ u → u ≤ 128 →
    (pad x u mode).length = u ∧ (pad x u mode).take x.length = x ∧ (x.length = u → pad x u mode = x) ∧
    (x.length < u →
      (mode = .marker80 → ∀ k : Nat, x.length ≤ k → k < u →
        byteAt (pad x u mode) k = if k = x.length then 0x80#8 else 0x00#8) ∧
      (mode = .lengthByte → ∀ k : Nat, x.length ≤ k → k < u →
        (byteAt (pad x u mode) k).toNat = if k = u - 1 then x.length else 0) ∧
      (mode = .laneXor → ∀ k : Nat, x.length ≤ k → k < u → byteAt (pad x u mode) k = 0x00#8))

/-- spec/41_padding.md R175: the byte counts and classes of one phase of length `L` and unit `u`. -/
def Obligations.ClassesOfAPhase : Prop :=
  ∀ (L u : Nat) (ph : PadPhase), 1 ≤ u →
    let bs := phaseBlocks L u ph (L + 1) 0
    let k := (L + u - 1) / u
    (L = 0 → bs = [(0, emptyClass ph)]) ∧
    (0 < L →
      bs = List.replicate (k - 1) (u, nonfinalClass ph) ++
        [if u ∣ L then (u, finalFullClass ph) else (L - (k - 1) * u, finalPartialClass ph)]) ∧
    (bs.map Prod.fst).sum = L ∧ bs.length = phaseSteps L u

/-- spec/42_engine.md R236, spec/41_padding.md R170: in a well-formed profile different classes have different domain bytes,
and the boundary cases the rule names have different classes. -/
def Obligations.DomainSeparation : Prop :=
  ∀ (P : Profile) (sMax : Nat), P.wf sMax = true →
    (∀ c c' : DomClass, domByte P c = domByte P c' → c = c') ∧
    (classify 0 0 P.unitAd .ad).2 = .adEmpty ∧ (classify P.unitAd 0 P.unitAd .ad).2 = .adFinalFull ∧
    (classify P.unitMsg 0 P.unitMsg .msg).2 = .msgFinalFull ∧
    (2 ≤ P.unitMsg → (classify (P.unitMsg - 1) 0 P.unitMsg .msg).2 = .msgFinalPartial)

/-- spec/00_scope.md R16: `loadWord` and `storeWord` are inverses, in both byte orders. -/
def Obligations.WordPacking : Prop :=
  ∀ e : Endian,
    (∀ n v : Nat, v < 2 ^ (8 * n) → (storeWord e n v).length = n ∧ loadWord e (storeWord e n v) = v) ∧
    (∀ b : Bytes, loadWord e b < 2 ^ (8 * b.length) ∧ storeWord e b.length (loadWord e b) = b) ∧
    (∀ b : Bytes, loadWord .le b = ((List.range b.length).map (fun k => (byteAt b k).toNat * 2 ^ (8 * k))).sum) ∧
    ∀ b : Bytes, loadWord .be b =
      ((List.range b.length).map (fun k => (byteAt b k).toNat * 2 ^ (8 * (b.length - 1 - k)))).sum

/-! The host bus. -/

/-- spec/20_memory.md R81, R85, R86, spec/60_exceptions.md R328: a host transaction at an offset of the ADE gets a bus error
exactly where R85 does not make it legal. The model's choices: the bus error is the step's fault (log entry 10), and a
transaction that reaches no offset of the ADE gets none from it (log entry 13). -/
def Obligations.LegalTransactions : Prop :=
  ∀ (s : State) (x : Txn),
    (step (s.withEvent (.bus x)) = .fault .busErr ↔
      ∃ off : Nat, x.addr = s.params.adeBase + off ∧ off < 0x10000 ∧ ¬ LegalAccess s off x.width)

/-- spec/20_memory.md R88, spec/44_commands.md R271: the busy rule. -/
def Obligations.BusyRule : Prop :=
  (∀ (s : State) (v : Word), s.params.wf = true → s.busy = true →
    (∀ r : HostReg, r.isOperand = true ∨ r = .cmd →
      step (s.withEvent (.bus (regTxn s r (.write v)))) =
        .next { s with
          hostErr := true
          response := .written }) ∧
    (∀ off width : Nat, WindowAccess s off width →
      step (s.withEvent (.bus (offTxn s off width .read))) =
        .next { s with
          hostErr := true
          response := .data 0x00000000#32 } ∧
      step (s.withEvent (.bus (offTxn s off width (.write v)))) =
        .next { s with
          hostErr := true
          response := .written }) ∧
    (∀ r : HostReg, step (s.withEvent (.bus (regTxn s r .read))) = .next { s with response := .data (readReg s r) }) ∧
    step (s.withEvent (.bus (regTxn s .ctrl (.write v)))) = .next (respond .written (writeCtrl v s)) ∧
    step (s.withEvent (.bus (regTxn s .status (.write v)))) = .next (respond .written (writeStatus v s))) ∧
  ∀ (s t : State) (x : Txn), s.busy = false → step (s.withEvent (.bus x)) = .next t →
    t.hostErr = true → s.hostErr = true

/-- spec/20_memory.md R83, R85: a BUF access transfers the bytes it covers, the lowest offset in the lowest lane. The model's
choice (log entry 12): the bits above a narrow read's lanes are 0 (`w.toNat < 2 ^ width`). -/
def Obligations.BufWindow : Prop :=
  ∀ (s : State), s.params.wf = true → s.buf.wf = true → s.busy = false →
    (∀ off width : Nat, WindowAccess s off width →
      (∃ w : Word, step (s.withEvent (.bus (offTxn s off width .read))) = .next { s with response := .data w } ∧
        w.toNat < 2 ^ width ∧
        ∀ k : Nat, k < width / 8 → w.extractLsb' (8 * k) 8 = s.buf.read (off - 0x8000 + k)) ∧
      ∀ v : Word, ∃ t : State, step (s.withEvent (.bus (offTxn s off width (.write v)))) = .next t ∧
        (∀ k : Nat, k < width / 8 → t.buf.read (off - 0x8000 + k) = v.extractLsb' (8 * k) 8) ∧
        SameOutside s t (off - 0x8000) (width / 8) ∧
        t = { s with
          buf := t.buf
          response := .written }) ∧
    ∀ (a : Nat) (v : Word), a < s.params.bufSize →
      ∃ (t : State) (w : Word),
        step (s.withEvent (.bus (offTxn s (0x8000 + a) 8 (.write v)))) = .next t ∧
        step (t.withEvent (.bus (offTxn t (0x8000 + 4 * (a / 4)) 32 .read))) = .next { t with response := .data w } ∧
        w.extractLsb' (8 * (a % 4)) 8 = v.extractLsb' 0 8

/-- spec/20_memory.md R87, spec/10_state.md R53: unmapped offsets and reserved register offsets read 0, read-only registers
read their value, and writes of any of them change nothing, whether BUSY is 0 or 1. -/
def Obligations.IgnoredAccesses : Prop :=
  ∀ (s : State) (v : Word),
    (∀ off width : Nat,
      UnmappedAccess s off width ∨ (0x058 ≤ off ∧ off < 0x100 ∧ off % 4 = 0 ∧ width = 32) →
      step (s.withEvent (.bus (offTxn s off width .read))) = .next { s with response := .data 0x00000000#32 } ∧
      step (s.withEvent (.bus (offTxn s off width (.write v)))) = .next { s with response := .written }) ∧
    ∀ r : HostReg, r.isReadOnly = true →
      step (s.withEvent (.bus (regTxn s r .read))) = .next { s with response := .data (readReg s r) } ∧
      step (s.withEvent (.bus (regTxn s r (.write v)))) = .next { s with response := .written }

/-- spec/10_state.md R31, R32, R49: ID, VERSION and BUFSIZE. -/
def Obligations.ConstantRegisters : Prop :=
  ∀ (s : State) (v : Word),
    (∀ p : HostReg × Word,
      p ∈ [(HostReg.id, 0x41444531#32), (HostReg.version, 0x00010000#32),
        (HostReg.bufSize, BitVec.ofNat 32 s.params.bufSize)] →
      step (s.withEvent (.bus (regTxn s p.1 .read))) = .next { s with response := .data p.2 } ∧
      step (s.withEvent (.bus (regTxn s p.1 (.write v)))) = .next { s with response := .written })

/-- spec/10_state.md R50, R51, R52: FAMINFO0 and FAMINFO1 give the fields of the profile FAMILY selects, PRIMINFO those of the
descriptor PSEL selects, and each is 0 where nothing is selected; writes are ignored. -/
def Obligations.InfoRegisters : Prop :=
  ∀ s : State, s.params.wf = true →
    (∀ r : HostReg, r = .famInfo0 ∨ r = .famInfo1 ∨ r = .primInfo → ∀ v : Word,
      step (s.withEvent (.bus (regTxn s r .read))) = .next { s with response := .data (readReg s r) } ∧
      step (s.withEvent (.bus (regTxn s r (.write v)))) = .next { s with response := .written }) ∧
    (∀ P : Profile, Selects s P →
      ((readReg s .famInfo0).extractLsb' 0 8).toNat = P.keyLen ∧
      ((readReg s .famInfo0).extractLsb' 8 8).toNat = P.nonceLen ∧
      ((readReg s .famInfo0).extractLsb' 16 8).toNat = P.tagLen ∧
      (readReg s .famInfo0).extractLsb' 24 8 = 0x80#8 ∧
      ((readReg s .famInfo1).extractLsb' 0 8).toNat = P.unitAd ∧
      ((readReg s .famInfo1).extractLsb' 8 8).toNat = P.unitMsg ∧
      (readReg s .famInfo1).extractLsb' 16 16 = 0#16) ∧
    ((∀ P ∈ s.params.families, P.id ≠ s.family) → readReg s .famInfo0 = 0#32 ∧ readReg s .famInfo1 = 0#32) ∧
    (∀ D : PrimDesc, SelectsPrim s D →
      ((readReg s .primInfo).extractLsb' 0 8).toNat = D.blockBytes ∧
      ((readReg s .primInfo).extractLsb' 8 8).toNat = D.keyBytes ∧
      ((readReg s .primInfo).extractLsb' 16 8).toNat = D.maxRounds ∧
      (readReg s .primInfo).getLsbD 24 = true ∧
      (readReg s .primInfo).getLsbD 25 = D.hasDec ∧
      ((readReg s .primInfo).getLsbD 26 = true ↔ D.kind = .permutation) ∧
      (readReg s .primInfo).extractLsb' 27 5 = 0#5) ∧
    ((∀ D ∈ s.params.prims, D.id ≠ s.psel) → readReg s .primInfo = 0#32) ∧
    (s.family = 0x00#8 → readReg s .famInfo0 = 0#32 ∧ readReg s .famInfo1 = 0#32) ∧
    (s.psel = 0x00#8 → readReg s .primInfo = 0#32)

/-- spec/10_state.md R36 to R46, R54: at its offset each operand register holds the bits of a write while BUSY = 0 in its
own field and reads that field back, whatever BUSY; a bus read then gives the implemented bits of what was written, and no
other register changes; no step changes an operand register but such a write and a reset. -/
def Obligations.OperandRegisters : Prop :=
  (∀ (s : State) (v : Word), s.busy = false →
    let wr := fun off : Nat => step (s.withEvent (.bus (offTxn s off 32 (.write v))))
    wr 0x018 = .next { s with family := v.extractLsb' 0 8, response := .written } ∧
    wr 0x01C = .next { s with keyLen := v.extractLsb' 0 8, response := .written } ∧
    wr 0x020 = .next { s with nonceLen := v.extractLsb' 0 8, response := .written } ∧
    wr 0x024 = .next { s with keyPtr := v, response := .written } ∧
    wr 0x028 = .next { s with noncePtr := v, response := .written } ∧
    wr 0x02C = .next { s with adPtr := v, response := .written } ∧
    wr 0x030 = .next { s with adLen := v, response := .written } ∧
    wr 0x034 = .next { s with inPtr := v, response := .written } ∧
    wr 0x038 = .next { s with inLen := v, response := .written } ∧
    wr 0x03C = .next { s with outPtr := v, response := .written } ∧
    wr 0x044 = .next { s with
      psel := v.extractLsb' 0 8
      rounds := v.extractLsb' 8 8
      start := v.extractLsb' 16 8
      response := .written }) ∧
  (∀ s : State,
    let rd := fun off : Nat => step (s.withEvent (.bus (offTxn s off 32 .read)))
    let data := fun w : Word => Host.Outcome.next { s with response := .data w }
    rd 0x018 = data (s.family.setWidth 32) ∧
    rd 0x01C = data (s.keyLen.setWidth 32) ∧
    rd 0x020 = data (s.nonceLen.setWidth 32) ∧
    rd 0x024 = data s.keyPtr ∧
    rd 0x028 = data s.noncePtr ∧
    rd 0x02C = data s.adPtr ∧
    rd 0x030 = data s.adLen ∧
    rd 0x034 = data s.inPtr ∧
    rd 0x038 = data s.inLen ∧
    rd 0x03C = data s.outPtr ∧
    rd 0x044 = data (0#8 ++ s.start ++ s.rounds ++ s.psel)) ∧
  (∀ (s : State) (v : Word) (r : HostReg), s.busy = false → r.isOperand = true →
    ∃ t : State, step (s.withEvent (.bus (regTxn s r (.write v)))) = .next t ∧
      step (t.withEvent (.bus (regTxn t r .read))) = .next { t with response := .data (v &&& r.implemented) } ∧
      readReg t r = v &&& r.implemented ∧
      (∀ r' : HostReg, r'.isOperand = true → r' ≠ r → readReg t r' = readReg s r') ∧
      OnlyOperandsChanged s t) ∧
  (∀ s t : State, step (s.withEvent .turn) = .next t → SameOperands s t) ∧
  ∀ (s t : State) (e : Event), step (s.withEvent e) = .next t → ¬ SameOperands s t →
    e = .hwReset ∨ (∃ v : Word, v.getLsbD 1 = true ∧ e = .bus (regTxn s .ctrl (.write v))) ∨
    (s.busy = false ∧ ∃ (r : HostReg) (v : Word), r.isOperand = true ∧ e = .bus (regTxn s r (.write v)))

/-- spec/10_state.md R33, R351: CTRL. -/
def Obligations.CtrlRegister : Prop :=
  ∀ (s : State) (v : Word),
    (step (s.withEvent (.bus (regTxn s .ctrl .read))) =
      .next { s with response := .data (if s.ie then 0x00000001#32 else 0x00000000#32) }) ∧
    (v.getLsbD 1 = false →
      step (s.withEvent (.bus (regTxn s .ctrl (.write v)))) =
        .next { s with
          ie := v.getLsbD 0
          response := .written }) ∧
    (v.getLsbD 1 = true →
      ∃ t : State, step (s.withEvent (.bus (regTxn s .ctrl (.write v)))) = .next t ∧ AtReset s t) ∧
    irq s = (s.done && s.ie) ∧ ctrlWord State.reset = 0x00000000#32

/-- spec/10_state.md R35, spec/30_encoding.md R114, R115: what STATUS reads as, with the three codes of RESULT and the eleven
of PHASE written out, and what a write of it changes. -/
def Obligations.StatusRegister : Prop :=
  ∀ (s : State) (v : Word),
    (∃ w : Word, step (s.withEvent (.bus (regTxn s .status .read))) = .next { s with response := .data w } ∧
      w.getLsbD 0 = s.busy ∧ w.getLsbD 1 = s.done ∧
      w.extractLsb' 2 2 =
        (match s.result with
          | .ok => 0#2
          | .invalidParameters => 1#2
          | .authenticationFailure => 2#2) ∧
      w.extractLsb' 4 4 =
        (match s.phase with
          | .idle => 0x0#4
          | .check => 0x1#4
          | .init => 0x2#4
          | .ad => 0x3#4
          | .msg => 0x4#4
          | .final => 0x5#4
          | .verify => 0x6#4
          | .scrub => 0x7#4
          | .wipe => 0x8#4
          | .prim => 0x9#4
          | .bufclr => 0xA#4) ∧
      w.getLsbD 8 = s.hostErr ∧ w.extractLsb' 9 23 = 0#23) ∧
    step (s.withEvent (.bus (regTxn s .status (.write v)))) =
      .next { s with
        done := if v.getLsbD 1 then false else s.done
        hostErr := if v.getLsbD 8 then false else s.hostErr
        response := .written }

/-- spec/10_state.md R34, R47, R48, spec/30_encoding.md R118: whatever BUSY, a bus read of ERR returns the code of DETAIL in
bits [3:0] and 0 above, with the fourteen codes written out, one of OUT_LEN returns OUT_LEN and one of CMD returns 0, and
nothing changes. -/
def Obligations.OutcomeRegisters : Prop :=
  ∀ s : State,
    let rd := fun off : Nat => step (s.withEvent (.bus (offTxn s off 32 .read)))
    let data := fun w : Word => Host.Outcome.next { s with response := .data w }
    rd 0x014 =
      data (match s.detail with
        | .none => 0x00000000#32
        | .badOpcode => 0x00000001#32
        | .badFamily => 0x00000002#32
        | .badKeyLen => 0x00000003#32
        | .badNonceLen => 0x00000004#32
        | .shortInput => 0x00000005#32
        | .adTooLong => 0x00000006#32
        | .msgTooLong => 0x00000007#32
        | .bounds => 0x00000008#32
        | .overlap => 0x00000009#32
        | .badPrim => 0x0000000A#32
        | .badRounds => 0x0000000B#32
        | .badBlockLen => 0x0000000C#32
        | .tagMismatch => 0x0000000D#32) ∧
    rd 0x040 = data s.outLen ∧
    rd 0x00C = data 0x00000000#32

/-- spec/60_exceptions.md R318, R320: IRQ rises only where a command completes with IE = 1, or where the host sets IE while
DONE = 1. -/
def Obligations.IrqRises : Prop :=
  ∀ (s t : State) (e : Event), step (s.withEvent e) = .next t → irq s = false → irq t = true →
    (e = .turn ∧ s.busy = true ∧ s.phase = .wipe ∧ s.ie = true ∧ t.busy = false) ∨
    (s.done = true ∧ ∃ v : Word, v.getLsbD 0 = true ∧ v.getLsbD 1 = false ∧ e = .bus (regTxn s .ctrl (.write v)))

/-- spec/10_state.md R35, spec/60_exceptions.md R315: HOSTERR rises only at a host transaction while BUSY = 1, and falls only
at a STATUS write with bit 8 = 1 or at a reset. -/
def Obligations.HostErrIsSticky : Prop :=
  ∀ (s t : State) (e : Event), step (s.withEvent e) = .next t →
    (s.hostErr = false → t.hostErr = true → s.busy = true ∧ ∃ x : Txn, e = .bus x) ∧
    (s.hostErr = true → t.hostErr = false →
      e = .hwReset ∨ (∃ v : Word, v.getLsbD 1 = true ∧ e = .bus (regTxn s .ctrl (.write v))) ∨
      ∃ v : Word, v.getLsbD 8 = true ∧ e = .bus (regTxn s .status (.write v)))

/-! Reset. -/

/-- spec/10_state.md R76: the reset column, and the column after the reset buffer clear. -/
def Obligations.ResetValues : Prop :=
  AtReset State.reset State.reset ∧
  (∀ r : HostReg, readReg State.reset r =
    match r with
    | .id => 0x41444531#32
    | .version => 0x00010000#32
    | .status => 0x000000A1#32
    | .bufSize => BitVec.ofNat 32 State.reset.params.bufSize
    | _ => 0x00000000#32) ∧
  ∃ t : State, step State.reset = .next t ∧ InternalsZero t ∧ irq t = false ∧ (∀ a : Nat, t.buf.read a = 0x00#8) ∧
    ∀ r : HostReg, readReg t r =
      match r with
      | .id => 0x41444531#32
      | .version => 0x00010000#32
      | .bufSize => BitVec.ofNat 32 State.reset.params.bufSize
      | _ => 0x00000000#32

/-- spec/70_reset_and_hazards.md R350, R351: a hardware reset and a write of CTRL with SRST = 1, at any time, leave the reset
column of R76; the sequencer's next step clears BUF and leaves STATUS = 0 and DONE = 0. -/
def Obligations.Reset : Prop :=
  (∀ s : State, ∃ t : State, step (s.withEvent .hwReset) = .next t ∧ AtReset s t) ∧
  (∀ (s : State) (v : Word), v.getLsbD 1 = true →
    ∃ t : State, step (s.withEvent (.bus (regTxn s .ctrl (.write v)))) = .next t ∧ AtReset s t) ∧
  ∀ s t : State, AtReset s t →
    ∃ u : State, step (t.withEvent .turn) = .next u ∧ (∀ a : Nat, u.buf.read a = 0x00#8) ∧
      statusWord u = 0x00000000#32 ∧ irq u = false ∧
      u = { t with
        buf := u.buf
        busy := false
        phase := .idle }

/-- spec/00_scope.md R10: no step changes a parameter of the instance. -/
def Obligations.InstanceIsFixed : Prop :=
  ∀ s t : State, step s = .next t → t.params = s.params

/-- spec/10_state.md R54, R71, R10 (and spec/44_commands.md R275 for ZEROIZE): no sequencer step changes an operand register,
CTRL, HOSTERR or a parameter, or answers the host. -/
def Obligations.SequencerKeepsHostState : Prop :=
  ∀ s t : State, step (s.withEvent .turn) = .next t →
    SameOperands s t ∧ t.ie = s.ie ∧ t.hostErr = s.hostErr ∧ t.params = s.params ∧ t.response = s.response ∧
    t.agenda = s.agenda

/-- spec/60_exceptions.md R315, spec/20_memory.md R93: while BUSY = 1 a host transaction that is no soft reset changes nothing
the running command reads or writes; while BUSY = 0 the sequencer changes nothing. -/
def Obligations.BusyPeriodIsUndisturbed : Prop :=
  (∀ (s t : State) (x : Txn), s.busy = true → step (s.withEvent (.bus x)) = .next t →
    (∃ v : Word, v.getLsbD 1 = true ∧ x = regTxn s .ctrl (.write v)) ∨
    t = { s with
      ie := t.ie
      done := t.done
      hostErr := t.hostErr
      response := t.response } ∧ (s.done = false → t.done = false)) ∧
  ∀ s : State, s.busy = false → step (s.withEvent .turn) = .next s

/-! The invariant. -/

/-- The reset state keeps the invariant (R76, R206, R73). -/
def Obligations.InvariantAtReset : Prop := MachineInv State.reset

/-- Every step keeps the invariant: the (PHASE, OP) pairs of R206, internal registers 0 while BUSY = 0 (R73), what the latches
and ST hold between CHECK and WIPE (R60 to R65), and the canonical form of BUF. -/
def Obligations.InvariantKept : Prop := ∀ s t : State, MachineInv s → step s = .next t → MachineInv t

/-- spec/60_exceptions.md R310: from a state of the invariant the sequencer never faults and nothing is refused; only a host
transaction that gets a bus error stops. -/
def Obligations.NoStepIsStuck : Prop :=
  ∀ s : State, MachineInv s →
    SafeOutcome (step s) ∧ ∃ t : State, step (s.withEvent .turn) = .next t

/-! Whole commands. -/

/-- spec/42_engine.md R233, R206: an ENCRYPT that passes its checks completes after `1 + 1 + a + m + 1 + 1` steps, with
`AEAD_Enc(K, N, A, X)` of the bytes that stood in BUF at OUT_PTR and nothing else of BUF changed. -/
def Obligations.EncryptCompletes : Prop :=
  ∀ (s : State) (P : Profile), Ready s → AeadPasses .enc P s →
    let K := s.buf.readBytes s.keyPtr.toNat P.keyLen
    let N := s.buf.readBytes s.noncePtr.toNat P.nonceLen
    let A := s.buf.readBytes s.adPtr.toNat s.adLen.toNat
    let X := s.buf.readBytes s.inPtr.toNat s.inLen.toNat
    ∃ t : State, CompletesIn (s.withCommand .encrypt) (aeadSteps .enc P s) t ∧
      t.buf.readBytes s.outPtr.toNat (s.inLen.toNat + P.tagLen) = aeadEnc P K N A X ∧
      SameOutside s t s.outPtr.toNat (s.inLen.toNat + P.tagLen) ∧
      Completed s t .ok .none (s.inLen.toNat + P.tagLen)

/-- spec/42_engine.md R233, R206: a DECRYPT that passes its checks completes after `1 + 1 + a + m + 1 + 2 + 1` steps, whether
or not the tags match, with the payload and the outcome of `AEAD_Dec(K, N, A, X, T)` and nothing else of BUF changed. -/
def Obligations.DecryptCompletes : Prop :=
  ∀ (s : State) (P : Profile), Ready s → AeadPasses .dec P s →
    let m := s.inLen.toNat - P.tagLen
    let K := s.buf.readBytes s.keyPtr.toNat P.keyLen
    let N := s.buf.readBytes s.noncePtr.toNat P.nonceLen
    let A := s.buf.readBytes s.adPtr.toNat s.adLen.toNat
    let X := s.buf.readBytes s.inPtr.toNat m
    let T := s.buf.readBytes (s.inPtr.toNat + m) P.tagLen
    let r := aeadDec P K N A X T
    ∃ t : State, CompletesIn (s.withCommand .decrypt) (aeadSteps .dec P s) t ∧
      t.buf.readBytes s.outPtr.toNat m = r.1 ∧
      SameOutside s t s.outPtr.toNat m ∧
      Completed s t (if r.2 then .ok else .authenticationFailure) (if r.2 then .none else .tagMismatch) m

/-- spec/42_engine.md R234: for a profile with law ENC-DEC, DECRYPT of what ENCRYPT writes gives the plaintext back. -/
def Obligations.RoundTrip : Prop :=
  ∀ (s : State) (P : Profile) (X : Bytes), EncDecLaw P → Ready s → AeadPasses .dec P s →
    X.length = s.inLen.toNat - P.tagLen →
    s.buf.readBytes s.inPtr.toNat s.inLen.toNat =
      aeadEnc P (s.buf.readBytes s.keyPtr.toNat P.keyLen) (s.buf.readBytes s.noncePtr.toNat P.nonceLen)
        (s.buf.readBytes s.adPtr.toNat s.adLen.toNat) X →
    ∃ t : State, CompletesIn (s.withCommand .decrypt) (aeadSteps .dec P s) t ∧
      t.buf.readBytes s.outPtr.toNat X.length = X ∧ Completed s t .ok .none X.length

/-- spec/43_verifier.md R258: for a profile with law ENC-DEC, DECRYPT of an ENCRYPT's ciphertext with any other tag fails with
TAG_MISMATCH and leaves zeros. -/
def Obligations.TagTampering : Prop :=
  ∀ (s : State) (P : Profile) (X : Bytes), EncDecLaw P → Ready s → AeadPasses .dec P s →
    X.length = s.inLen.toNat - P.tagLen →
    let K := s.buf.readBytes s.keyPtr.toNat P.keyLen
    let N := s.buf.readBytes s.noncePtr.toNat P.nonceLen
    let A := s.buf.readBytes s.adPtr.toNat s.adLen.toNat
    s.buf.readBytes s.inPtr.toNat X.length = (aeadEncParts P K N A X).1 →
    s.buf.readBytes (s.inPtr.toNat + X.length) P.tagLen ≠ (aeadEncParts P K N A X).2 →
    ∃ t : State, CompletesIn (s.withCommand .decrypt) (aeadSteps .dec P s) t ∧
      t.buf.readBytes s.outPtr.toNat X.length = zeros X.length ∧
      Completed s t .authenticationFailure .tagMismatch X.length

/-- spec/20_memory.md R92: in place gives the output, OUT_LEN, RESULT and DETAIL of the same command with other regions that
hold the same bytes, in the same number of steps. -/
def Obligations.InPlace : Prop :=
  ∀ (d : Dir) (P : Profile) (s s' : State), Ready s → Ready s' → AeadPasses d P s → AeadPasses d P s' →
    s'.inPtr = s'.outPtr → s'.adLen = s.adLen → s'.inLen = s.inLen →
    s'.buf.readBytes s'.keyPtr.toNat P.keyLen = s.buf.readBytes s.keyPtr.toNat P.keyLen →
    s'.buf.readBytes s'.noncePtr.toNat P.nonceLen = s.buf.readBytes s.noncePtr.toNat P.nonceLen →
    s'.buf.readBytes s'.adPtr.toNat s'.adLen.toNat = s.buf.readBytes s.adPtr.toNat s.adLen.toNat →
    s'.buf.readBytes s'.inPtr.toNat s'.inLen.toNat = s.buf.readBytes s.inPtr.toNat s.inLen.toNat →
    ∃ (n : Nat) (t t' : State), CompletesIn (s.withCommand d.instr) n t ∧ CompletesIn (s'.withCommand d.instr) n t' ∧
      t'.outLen = t.outLen ∧ t'.result = t.result ∧ t'.detail = t.detail ∧
      t'.buf.readBytes s'.outPtr.toNat t.outLen.toNat = t.buf.readBytes s.outPtr.toNat t.outLen.toNat

/-- spec/40_primitive.md R153, R154, R155: a raw primitive command that passes its checks completes after three steps, with
the primitive's output of the bytes that stood in BUF at OUT_PTR, however the regions overlap (R151). -/
def Obligations.PrimCompletes : Prop :=
  ∀ (o : PrimOp) (s : State) (D : PrimDesc), Ready s → PrimPasses o D s →
    let nr := if s.rounds = 0#8 then D.defaultRounds else s.rounds.toNat
    let b := s.buf.readBytes s.inPtr.toNat D.blockBytes
    let k := s.buf.readBytes s.keyPtr.toNat D.keyBytes
    let y := match o with
      | .enc => primEncBlock D k nr s.start.toNat b
      | .dec => primDecBlock D k nr s.start.toNat b
      | .perm => primPermBlock D nr s.start.toNat b
    ∃ t : State, CompletesIn (s.withCommand o.instr) 3 t ∧
      t.buf.readBytes s.outPtr.toNat D.blockBytes = y ∧
      SameOutside s t s.outPtr.toNat D.blockBytes ∧
      Completed s t .ok .none D.blockBytes

/-- spec/40_primitive.md R154, with law PRIM-INV (R142; log entries 8 and 9): PRIM_DEC of the block that PRIM_ENC writes
(`PrimCompletes`), with the same key, ROUNDS and START, gives the input back. -/
def Obligations.PrimDecUndoesPrimEnc : Prop :=
  ∀ (s : State) (D : PrimDesc) (X : Bytes), Ready s → PrimPasses .dec D s → X.length = D.blockBytes →
    s.buf.readBytes s.inPtr.toNat D.blockBytes =
      primEncBlock D (s.buf.readBytes s.keyPtr.toNat D.keyBytes)
        (if s.rounds = 0#8 then D.defaultRounds else s.rounds.toNat) s.start.toNat X →
    ∃ t : State, CompletesIn (s.withCommand .primDec) 3 t ∧
      t.buf.readBytes s.outPtr.toNat D.blockBytes = X ∧
      SameOutside s t s.outPtr.toNat D.blockBytes ∧
      Completed s t .ok .none D.blockBytes

/-- spec/60_exceptions.md R314: a command whose check fails completes after two steps, and every BUF byte, every operand
register, CTRL and HOSTERR hold what they held before the CMD write. -/
def Obligations.FailuresArePrecise : Prop :=
  ∀ (s : State) (i : Instr) (e : Detail), Ready s → i.wf = true → CheckFails i s e →
    ∃ t : State, CompletesIn (s.withCommand i) 2 t ∧ t.buf = s.buf ∧ Completed s t .invalidParameters e 0

/-! Secrecy. -/

/-- spec/43_verifier.md R255, spec/70_reset_and_hazards.md R372: the phases, the offsets, OUT_LEN and the number of steps do
not depend on the bytes of BUF, of the key, nonce and tag latches or of MASK, whatever the host does. -/
def Obligations.ConstantTime : Prop :=
  ∀ s s' t : State, PublicEqual s s' → step s = .next t → ∃ t' : State, step s' = .next t' ∧ PublicEqual t t'

/-- spec/10_state.md R73, spec/43_verifier.md R256: no host transaction reads ST, the latches or MASK, and while BUSY = 1 none
reads BUF: the responses, and everything else outside them, are the same. -/
def Obligations.HiddenFromTheHost : Prop :=
  (∀ (s s' t : State) (x : Txn), SameButHidden s s' → step (s.withEvent (.bus x)) = .next t →
    ∃ t' : State, step (s'.withEvent (.bus x)) = .next t' ∧ SameButHidden t t') ∧
  ∀ (s s' t : State) (x : Txn), s.busy = true → SameButSecret s s' → step (s.withEvent (.bus x)) = .next t →
    ∃ t' : State, step (s'.withEvent (.bus x)) = .next t' ∧ SameButSecret t t'

end
end

