-- ==== Sys2Proof/Laws/Buf.lean ====
section
/-! SUPPORT. BUF and byte strings: every memory operation keeps the canonical form, a read after a write gives the value
written and leaves every other byte alone, and equal contents are equal lists. -/

namespace Sys2Proof.Machine

/-! The canonical form. -/

theorem Mem.wfAbove_mono {m : Mem} {a b : Nat} (h : Mem.wfAbove m b = true) (hab : a ≤ b) :
    Mem.wfAbove m a = true := by
  cases m with
  | nil => rfl
  | cons c m =>
    obtain ⟨k, v⟩ := c
    simp only [Mem.wfAbove, Bool.and_eq_true, decide_eq_true_eq] at h ⊢
    exact ⟨⟨le_trans hab h.1.1, h.1.2⟩, h.2⟩

theorem Mem.wf_of_wfAbove {m : Mem} {a : Nat} (h : Mem.wfAbove m a = true) : m.wf = true :=
  Mem.wfAbove_mono h (Nat.zero_le a)

theorem Mem.wfAbove_write {m : Mem} {l a : Nat} (v : Byte) (h : Mem.wfAbove m l = true) (hl : l ≤ a) :
    Mem.wfAbove (Mem.write m a v) l = true := by
  induction m generalizing l with
  | nil =>
    by_cases hv : v = 0#8
    · simp [Mem.write, Mem.wfAbove, hv]
    · simp [Mem.write, Mem.wfAbove, hv, hl]
  | cons c m ih =>
    obtain ⟨k, x⟩ := c
    simp only [Mem.wfAbove, Bool.and_eq_true, decide_eq_true_eq, bne_iff_ne, ne_eq] at h
    obtain ⟨⟨hk, hx⟩, hm⟩ := h
    simp only [Mem.write]
    by_cases h1 : a < k
    · by_cases hv : v = 0#8
      · simp [h1, hv, Mem.wfAbove, hk, hx, hm]
      · simp [h1, hv, Mem.wfAbove, hl, hx, hm, Nat.succ_le_of_lt h1]
    · by_cases h2 : a = k
      · by_cases hv : v = 0#8
        · simpa [h1, h2, hv] using Mem.wfAbove_mono hm (Nat.le_succ_of_le hk)
        · subst h2
          simp [hv, Mem.wfAbove, hl, hm]
      · have h3 : k + 1 ≤ a := by omega
        simp [h1, h2, Mem.wfAbove, hk, hx, ih hm h3]

/-- A write keeps the canonical form. -/
theorem Mem.wf_write {m : Mem} (a : Nat) (v : Byte) (h : m.wf = true) : (Mem.write m a v).wf = true :=
  Mem.wfAbove_write v h (Nat.zero_le a)

/-- A write of a byte string keeps the canonical form. -/
theorem Mem.wf_writeBytes {m : Mem} (a : Nat) (bs : Bytes) (h : m.wf = true) : (m.writeBytes a bs).wf = true := by
  induction bs generalizing m a with
  | nil => exact h
  | cons v vs ih => exact ih (a + 1) (Mem.wf_write a v h)

/-- Filling keeps the canonical form. -/
theorem Mem.wf_fill {m : Mem} (f : Nat → Byte) (n : Nat) (h : m.wf = true) : (m.fill f n).wf = true := by
  induction n with
  | zero => exact h
  | succ n ih => exact Mem.wf_write n (f n) ih

theorem unspecifiedBuf_wf (k n : Nat) : (unspecifiedBuf k n).wf = true :=
  Mem.wf_fill (Config.unspecifiedByte k) n rfl

/-! Reads after writes. -/

theorem Mem.read_below {m : Mem} {l a : Nat} (h : Mem.wfAbove m l = true) (ha : a < l) : m.read a = 0#8 := by
  induction m generalizing l with
  | nil => rfl
  | cons c m ih =>
    obtain ⟨k, x⟩ := c
    simp only [Mem.wfAbove, Bool.and_eq_true, decide_eq_true_eq] at h
    have hne : a ≠ k := by omega
    simpa [Mem.read, hne] using ih h.2 (by omega)

theorem Mem.read_write_above {m : Mem} {l a : Nat} (v : Byte) (b : Nat) (h : Mem.wfAbove m l = true) (hl : l ≤ a) :
    (Mem.write m a v).read b = if b = a then v else m.read b := by
  induction m generalizing l with
  | nil =>
    by_cases hv : v = 0#8 <;> by_cases hb : b = a <;> simp [Mem.write, Mem.read, hv, hb]
  | cons c m ih =>
    obtain ⟨k, x⟩ := c
    simp only [Mem.wfAbove, Bool.and_eq_true, decide_eq_true_eq, bne_iff_ne, ne_eq] at h
    obtain ⟨⟨hk, hx⟩, hm⟩ := h
    simp only [Mem.write]
    by_cases h1 : a < k
    · have hak : a ≠ k := by omega
      have hz : Mem.read m a = 0#8 := Mem.read_below hm (by omega)
      by_cases hv : v = 0#8
      · by_cases hb : b = a
        · subst hb
          simp [h1, hv, Mem.read, hak, hz]
        · simp [h1, hv, hb]
      · by_cases hb : b = a
        · subst hb
          simp [h1, hv, Mem.read]
        · simp [h1, hv, Mem.read, hb]
    · by_cases h2 : a = k
      · subst h2
        by_cases hv : v = 0#8
        · by_cases hb : b = a
          · subst hb
            have hz : Mem.read m b = 0#8 := Mem.read_below hm (by omega)
            simp [hv, hz]
          · simp [hv, hb, Mem.read]
        · by_cases hb : b = a <;> simp [hv, hb, Mem.read]
      · have h3 : k + 1 ≤ a := by omega
        simp only [h1, h2, if_false, Mem.read, ih hm h3]
        by_cases hb : b = k
        · have : b ≠ a := by omega
          simp [hb, Ne.symm h2]
        · simp [hb]

/-- A read after a write: the value written, or what was there. -/
theorem Mem.read_write {m : Mem} (a : Nat) (v : Byte) (b : Nat) (h : m.wf = true) :
    (Mem.write m a v).read b = if b = a then v else m.read b :=
  Mem.read_write_above v b h (Nat.zero_le a)

@[simp] theorem Mem.readBytes_length (m : Mem) (a n : Nat) : (m.readBytes a n).length = n := by
  induction n generalizing a with
  | zero => rfl
  | succ n ih => simp [Mem.readBytes, ih]

theorem Mem.readBytes_getD (m : Mem) (a n i : Nat) (h : i < n) : (m.readBytes a n).getD i 0#8 = m.read (a + i) := by
  induction n generalizing a i with
  | zero => omega
  | succ n ih =>
    cases i with
    | zero => simp [Mem.readBytes]
    | succ i =>
      have := ih (a + 1) i (by omega)
      simpa [Mem.readBytes, Nat.add_assoc, Nat.add_comm 1 i] using this

theorem Mem.readBytes_congr {m m' : Mem} {a n : Nat} (h : ∀ i, i < n → m.read (a + i) = m'.read (a + i)) :
    m.readBytes a n = m'.readBytes a n := by
  induction n generalizing a with
  | zero => rfl
  | succ n ih =>
    simp only [Mem.readBytes, List.cons.injEq]
    refine ⟨by simpa using h 0 (by omega), ih (fun i hi => ?_)⟩
    have := h (i + 1) (by omega)
    simpa [Nat.add_assoc, Nat.add_comm 1 i] using this

theorem Mem.readBytes_append (m : Mem) (a n k : Nat) :
    m.readBytes a (n + k) = m.readBytes a n ++ m.readBytes (a + n) k := by
  induction n generalizing a with
  | zero => simp [Mem.readBytes]
  | succ n ih =>
    have : n + 1 + k = (n + k) + 1 := by omega
    rw [this]
    simp only [Mem.readBytes, ih (a + 1), List.cons_append]
    rw [show a + 1 + n = a + (n + 1) by omega]

/-- A read after a write of a byte string: the string's byte, or what was there. -/
theorem Mem.read_writeBytes {m : Mem} (a : Nat) (bs : Bytes) (b : Nat) (h : m.wf = true) :
    (m.writeBytes a bs).read b = if a ≤ b ∧ b < a + bs.length then bs.getD (b - a) 0#8 else m.read b := by
  induction bs generalizing m a with
  | nil =>
    simp [Mem.writeBytes]
  | cons v vs ih =>
    simp only [Mem.writeBytes, List.length_cons]
    rw [ih (a + 1) (Mem.wf_write a v h), Mem.read_write a v b h]
    by_cases h1 : a + 1 ≤ b ∧ b < a + 1 + vs.length
    · have h2 : a ≤ b ∧ b < a + (vs.length + 1) := by omega
      have h3 : b - a = (b - (a + 1)) + 1 := by omega
      rw [if_pos h1, if_pos h2, h3]
      simp
    · rw [if_neg h1]
      by_cases hb : b = a
      · subst hb
        simp
      · have h2 : ¬ (a ≤ b ∧ b < a + (vs.length + 1)) := by omega
        rw [if_neg hb, if_neg h2]

theorem Mem.read_writeBytes_outside {m : Mem} {a : Nat} {bs : Bytes} {b : Nat} (h : m.wf = true)
    (hb : b < a ∨ a + bs.length ≤ b) : (m.writeBytes a bs).read b = m.read b := by
  rw [Mem.read_writeBytes a bs b h, if_neg (by omega)]

theorem Mem.readBytes_writeBytes_same {m : Mem} (a : Nat) (bs : Bytes) (h : m.wf = true) :
    (m.writeBytes a bs).readBytes a bs.length = bs := by
  refine List.ext_getElem (by simp) (fun i h1 h2 => ?_)
  have hi : i < bs.length := h2
  have hl := Mem.readBytes_getD (m.writeBytes a bs) a bs.length i hi
  rw [Mem.read_writeBytes a bs (a + i) h, if_pos (by omega)] at hl
  have e : a + i - a = i := by omega
  rw [e] at hl
  simpa [List.getD_eq_getElem?_getD, List.getElem?_eq_getElem h1, List.getElem?_eq_getElem h2] using hl

theorem Mem.readBytes_writeBytes_disjoint {m : Mem} {a b n : Nat} {bs : Bytes} (h : m.wf = true)
    (hd : b + n ≤ a ∨ a + bs.length ≤ b ∨ n = 0) : (m.writeBytes a bs).readBytes b n = m.readBytes b n :=
  Mem.readBytes_congr (fun i hi => Mem.read_writeBytes_outside h (by omega))

theorem Mem.writeBytes_append (m : Mem) (a : Nat) (xs ys : Bytes) :
    m.writeBytes a (xs ++ ys) = (m.writeBytes a xs).writeBytes (a + xs.length) ys := by
  induction xs generalizing m a with
  | nil => simp [Mem.writeBytes]
  | cons x xs ih =>
    simp only [List.cons_append, Mem.writeBytes, ih, List.length_cons]
    rw [show a + 1 + xs.length = a + (xs.length + 1) by omega]

theorem Mem.read_fill {m : Mem} (f : Nat → Byte) (n b : Nat) (h : m.wf = true) :
    (m.fill f n).read b = if b < n then f b else m.read b := by
  induction n with
  | zero => simp [Mem.fill]
  | succ n ih =>
    rw [Mem.fill, Mem.read_write n (f n) b (Mem.wf_fill f n h), ih]
    by_cases hb : b = n
    · simp [hb]
    · by_cases h2 : b < n
      · simp [hb, h2, Nat.lt_succ_of_lt h2]
      · have : ¬ b < n + 1 := by omega
        simp [hb, h2, this]

/-! Equal contents are equal lists. -/

theorem Mem.ext_above {m m' : Mem} {l : Nat} (h : Mem.wfAbove m l = true) (h' : Mem.wfAbove m' l = true)
    (hr : ∀ a, m.read a = m'.read a) : m = m' := by
  induction m generalizing m' l with
  | nil =>
    cases m' with
    | nil => rfl
    | cons c m' =>
      obtain ⟨k, x⟩ := c
      simp only [Mem.wfAbove, Bool.and_eq_true, bne_iff_ne, ne_eq] at h'
      exact absurd (by simpa [Mem.read] using (hr k).symm) h'.1.2
  | cons c m ih =>
    obtain ⟨k, x⟩ := c
    simp only [Mem.wfAbove, Bool.and_eq_true, decide_eq_true_eq, bne_iff_ne, ne_eq] at h
    obtain ⟨⟨hk, hx⟩, hm⟩ := h
    cases m' with
    | nil => exact absurd (by simpa [Mem.read] using hr k) hx
    | cons c' m' =>
      obtain ⟨k', x'⟩ := c'
      simp only [Mem.wfAbove, Bool.and_eq_true, decide_eq_true_eq, bne_iff_ne, ne_eq] at h'
      obtain ⟨⟨hk', hx'⟩, hm'⟩ := h'
      have e : k = k' := by
        rcases Nat.lt_trichotomy k k' with hlt | he | hlt
        · have hz : Mem.read m' k = 0#8 := Mem.read_below hm' (by omega)
          have hne : k ≠ k' := by omega
          exact absurd (by simpa [Mem.read, hne, hz] using hr k) hx
        · exact he
        · have hz : Mem.read m k' = 0#8 := Mem.read_below hm (by omega)
          have hne : k' ≠ k := by omega
          exact absurd (by simpa [Mem.read, hne, hz] using (hr k').symm) hx'
      subst e
      have ex : x = x' := by simpa [Mem.read] using hr k
      subst ex
      have : m = m' := by
        refine ih hm hm' (fun a => ?_)
        by_cases ha : a = k
        · subst ha
          rw [Mem.read_below hm (by omega), Mem.read_below hm' (by omega)]
        · simpa [Mem.read, ha] using hr a
      rw [this]

/-- Two contents in canonical form with the same bytes are the same list. -/
theorem Mem.ext {m m' : Mem} (h : m.wf = true) (h' : m'.wf = true) (hr : ∀ a, m.read a = m'.read a) : m = m' :=
  Mem.ext_above h h' hr

/-! Nothing at or above a bound. -/

/-- Whether every listed offset is below a bound. -/
abbrev Mem.below (m : Mem) (size : Nat) : Bool := m.all (fun c => decide (c.1 < size))

theorem Mem.below_write {m : Mem} {size a : Nat} (v : Byte) (h : m.below size = true) (ha : a < size) :
    (Mem.write m a v).below size = true := by
  induction m with
  | nil => by_cases hv : v = 0#8 <;> simp [Mem.write, hv, ha]
  | cons c m ih =>
    obtain ⟨k, x⟩ := c
    simp only [Mem.below, List.all_cons, Bool.and_eq_true, decide_eq_true_eq] at h
    have hm : Mem.below m size = true := h.2
    simp only [Mem.write]
    by_cases h1 : a < k
    · by_cases hv : v = 0#8
      · simpa [h1, hv] using ⟨h.1, by simpa using hm⟩
      · simpa [h1, hv] using ⟨ha, h.1, by simpa using hm⟩
    · by_cases h2 : a = k
      · by_cases hv : v = 0#8
        · simpa [h1, h2, hv] using hm
        · simpa [h1, h2, hv] using ⟨by omega, by simpa using hm⟩
      · have := ih hm
        simpa [h1, h2] using ⟨h.1, by simpa using this⟩

theorem Mem.below_writeBytes {m : Mem} {size a : Nat} {bs : Bytes} (h : m.below size = true)
    (ha : bs = [] ∨ a + bs.length ≤ size) : (m.writeBytes a bs).below size = true := by
  induction bs generalizing m a with
  | nil => exact h
  | cons v vs ih =>
    have hlen : a + (vs.length + 1) ≤ size := by
      rcases ha with ha | ha
      · exact absurd ha (by simp)
      · simpa using ha
    refine ih (Mem.below_write v h (by omega)) ?_
    right
    omega

theorem Mem.below_fill {m : Mem} {size n : Nat} (f : Nat → Byte) (h : m.below size = true) (hn : n ≤ size) :
    (m.fill f n).below size = true := by
  induction n with
  | zero => exact h
  | succ n ih => exact Mem.below_write (f n) (ih (by omega)) (by omega)

/-! `MemRead` and `MemWrite`. -/

theorem memRead_eq_some {s : State} {a n : Nat} {x : Bytes} :
    memRead s a n = some x ↔ inBuf s a n ∧ x = s.buf.readBytes a n := by
  unfold memRead
  by_cases h : inBuf s a n
  · simp [h, eq_comm]
  · simp [h]

theorem memRead_eq_none {s : State} {a n : Nat} : memRead s a n = none ↔ ¬ inBuf s a n := by
  unfold memRead
  by_cases h : inBuf s a n <;> simp [h]

theorem memWrite_eq_some {s : State} {a : Nat} {v : Bytes} {m : Mem} :
    memWrite s a v = some m ↔ inBuf s a v.length ∧ m = s.buf.writeBytes a v := by
  unfold memWrite
  by_cases h : inBuf s a v.length
  · simp [h, eq_comm]
  · simp [h]

theorem memWrite_eq_none {s : State} {a : Nat} {v : Bytes} : memWrite s a v = none ↔ ¬ inBuf s a v.length := by
  unfold memWrite
  by_cases h : inBuf s a v.length <;> simp [h]

/-! Byte strings. -/

@[simp] theorem fit_length (n : Nat) (b : Bytes) : (fit n b).length = n := by
  simp only [fit, List.length_append, List.length_take, List.length_replicate]
  omega

theorem fit_of_length {n : Nat} {b : Bytes} (h : b.length = n) : fit n b = b := by
  subst h
  simp [fit]

theorem fit_of_le {n : Nat} {b : Bytes} (h : b.length ≤ n) : fit n b = b ++ zeros (n - b.length) := by
  rw [fit, List.take_of_length_le h]

theorem fit_take {n : Nat} {b : Bytes} (h : b.length ≤ n) : (fit n b).take b.length = b := by
  rw [fit_of_le h, List.take_left']
  rfl

theorem fit_drop {n : Nat} {b : Bytes} (h : b.length ≤ n) : (fit n b).drop b.length = zeros (n - b.length) := by
  rw [fit_of_le h, List.drop_left']
  rfl

@[simp] theorem xorBytes_length (a b : Bytes) : (xorBytes a b).length = min a.length b.length := by
  simp [xorBytes]

/-- Xor with the same string twice. -/
theorem xorBytes_cancel (a b : Bytes) (h : b.length ≤ a.length) : xorBytes a (xorBytes a b) = b := by
  induction a generalizing b with
  | nil =>
    have : b = [] := List.eq_nil_of_length_eq_zero (by simpa using h)
    simp [this, xorBytes]
  | cons x a ih =>
    cases b with
    | nil => simp [xorBytes]
    | cons y b =>
      have := ih b (by simpa using h)
      simp only [xorBytes] at this
      simp [xorBytes, this]

@[simp] theorem storeLE_length (n v : Nat) : (storeLE n v).length = n := by
  induction n generalizing v with
  | zero => rfl
  | succ n ih => simp [storeLE, ih]

end Sys2Proof.Machine
end

