-- ==== Sys2Proof/Laws/Encoding.lean ====
section
/-! SUPPORT. The two fields of a command's word read back from its encoding (spec/30_encoding.md R110). -/

namespace Sys2Proof

/-- Bits [31:4] of a command's word. -/
theorem encode_high (i : Instr) : (encode i).extractLsb' 4 28 = i.high := by
  ext k hk
  simp only [BitVec.getElem_extractLsb']
  show (i.high ++ i.opcode : BitVec (28 + 4)).getLsbD (4 + k) = i.high[k]
  rw [BitVec.getLsbD_append, if_neg (by omega), Nat.add_sub_cancel_left, BitVec.getLsbD_eq_getElem hk]

/-- Bits [3:0] of a command's word. -/
theorem encode_opcode (i : Instr) : (encode i).extractLsb' 0 4 = i.opcode := by
  ext k hk
  simp only [BitVec.getElem_extractLsb']
  show (i.high ++ i.opcode : BitVec (28 + 4)).getLsbD (0 + k) = i.opcode[k]
  rw [Nat.zero_add, BitVec.getLsbD_append, if_pos hk, BitVec.getLsbD_eq_getElem hk]

/-- What a command's word latches into OP (spec/44_commands.md R270). -/
theorem opLatch_encode (i : Instr) : opLatch (encode i) = if i.high = 0#28 then i.opcode else 0xF#4 := by
  simp only [opLatch, encode_high, encode_opcode]

end Sys2Proof
end

