-- ==== Sys2Proof/Laws/State.lean ====
section
/-! SUPPORT. One lemma per field of State per named update: what the update leaves in the field. -/

namespace Sys2Proof.Machine

/-! `acceptCommand`. -/

@[simp] theorem acceptCommand_params (op : BitVec 4) (s : State) : (acceptCommand op s).params = s.params := rfl
@[simp] theorem acceptCommand_ie (op : BitVec 4) (s : State) : (acceptCommand op s).ie = s.ie := rfl
@[simp] theorem acceptCommand_busy (op : BitVec 4) (s : State) : (acceptCommand op s).busy = true := rfl
@[simp] theorem acceptCommand_done (op : BitVec 4) (s : State) : (acceptCommand op s).done = false := rfl
@[simp] theorem acceptCommand_result (op : BitVec 4) (s : State) : (acceptCommand op s).result = .ok := rfl
@[simp] theorem acceptCommand_phase (op : BitVec 4) (s : State) : (acceptCommand op s).phase = .check := rfl
@[simp] theorem acceptCommand_hostErr (op : BitVec 4) (s : State) : (acceptCommand op s).hostErr = s.hostErr := rfl
@[simp] theorem acceptCommand_detail (op : BitVec 4) (s : State) : (acceptCommand op s).detail = .none := rfl
@[simp] theorem acceptCommand_family (op : BitVec 4) (s : State) : (acceptCommand op s).family = s.family := rfl
@[simp] theorem acceptCommand_keyLen (op : BitVec 4) (s : State) : (acceptCommand op s).keyLen = s.keyLen := rfl
@[simp] theorem acceptCommand_nonceLen (op : BitVec 4) (s : State) : (acceptCommand op s).nonceLen = s.nonceLen := rfl
@[simp] theorem acceptCommand_keyPtr (op : BitVec 4) (s : State) : (acceptCommand op s).keyPtr = s.keyPtr := rfl
@[simp] theorem acceptCommand_noncePtr (op : BitVec 4) (s : State) : (acceptCommand op s).noncePtr = s.noncePtr := rfl
@[simp] theorem acceptCommand_adPtr (op : BitVec 4) (s : State) : (acceptCommand op s).adPtr = s.adPtr := rfl
@[simp] theorem acceptCommand_adLen (op : BitVec 4) (s : State) : (acceptCommand op s).adLen = s.adLen := rfl
@[simp] theorem acceptCommand_inPtr (op : BitVec 4) (s : State) : (acceptCommand op s).inPtr = s.inPtr := rfl
@[simp] theorem acceptCommand_inLen (op : BitVec 4) (s : State) : (acceptCommand op s).inLen = s.inLen := rfl
@[simp] theorem acceptCommand_outPtr (op : BitVec 4) (s : State) : (acceptCommand op s).outPtr = s.outPtr := rfl
@[simp] theorem acceptCommand_psel (op : BitVec 4) (s : State) : (acceptCommand op s).psel = s.psel := rfl
@[simp] theorem acceptCommand_rounds (op : BitVec 4) (s : State) : (acceptCommand op s).rounds = s.rounds := rfl
@[simp] theorem acceptCommand_start (op : BitVec 4) (s : State) : (acceptCommand op s).start = s.start := rfl
@[simp] theorem acceptCommand_outLen (op : BitVec 4) (s : State) : (acceptCommand op s).outLen = 0#32 := rfl
@[simp] theorem acceptCommand_st (op : BitVec 4) (s : State) : (acceptCommand op s).st = s.st := rfl
@[simp] theorem acceptCommand_kl (op : BitVec 4) (s : State) : (acceptCommand op s).kl = s.kl := rfl
@[simp] theorem acceptCommand_nl (op : BitVec 4) (s : State) : (acceptCommand op s).nl = s.nl := rfl
@[simp] theorem acceptCommand_tc (op : BitVec 4) (s : State) : (acceptCommand op s).tc = s.tc := rfl
@[simp] theorem acceptCommand_ts (op : BitVec 4) (s : State) : (acceptCommand op s).ts = s.ts := rfl
@[simp] theorem acceptCommand_mask (op : BitVec 4) (s : State) : (acceptCommand op s).mask = s.mask := rfl
@[simp] theorem acceptCommand_op (op : BitVec 4) (s : State) : (acceptCommand op s).op = op := rfl
@[simp] theorem acceptCommand_adOff (op : BitVec 4) (s : State) : (acceptCommand op s).adOff = s.adOff := rfl
@[simp] theorem acceptCommand_mOff (op : BitVec 4) (s : State) : (acceptCommand op s).mOff = s.mOff := rfl
@[simp] theorem acceptCommand_mLen (op : BitVec 4) (s : State) : (acceptCommand op s).mLen = s.mLen := rfl
@[simp] theorem acceptCommand_buf (op : BitVec 4) (s : State) : (acceptCommand op s).buf = s.buf := rfl
@[simp] theorem acceptCommand_agenda (op : BitVec 4) (s : State) : (acceptCommand op s).agenda = s.agenda := rfl
@[simp] theorem acceptCommand_response (op : BitVec 4) (s : State) : (acceptCommand op s).response = s.response := rfl
@[simp] theorem acceptCommand_freeCount (op : BitVec 4) (s : State) :
    (acceptCommand op s).freeCount = s.freeCount := rfl

/-! `dropTransaction`. -/

@[simp] theorem dropTransaction_params (s : State) : (dropTransaction s).params = s.params := rfl
@[simp] theorem dropTransaction_ie (s : State) : (dropTransaction s).ie = s.ie := rfl
@[simp] theorem dropTransaction_busy (s : State) : (dropTransaction s).busy = s.busy := rfl
@[simp] theorem dropTransaction_done (s : State) : (dropTransaction s).done = s.done := rfl
@[simp] theorem dropTransaction_result (s : State) : (dropTransaction s).result = s.result := rfl
@[simp] theorem dropTransaction_phase (s : State) : (dropTransaction s).phase = s.phase := rfl
@[simp] theorem dropTransaction_hostErr (s : State) : (dropTransaction s).hostErr = true := rfl
@[simp] theorem dropTransaction_detail (s : State) : (dropTransaction s).detail = s.detail := rfl
@[simp] theorem dropTransaction_family (s : State) : (dropTransaction s).family = s.family := rfl
@[simp] theorem dropTransaction_keyLen (s : State) : (dropTransaction s).keyLen = s.keyLen := rfl
@[simp] theorem dropTransaction_nonceLen (s : State) : (dropTransaction s).nonceLen = s.nonceLen := rfl
@[simp] theorem dropTransaction_keyPtr (s : State) : (dropTransaction s).keyPtr = s.keyPtr := rfl
@[simp] theorem dropTransaction_noncePtr (s : State) : (dropTransaction s).noncePtr = s.noncePtr := rfl
@[simp] theorem dropTransaction_adPtr (s : State) : (dropTransaction s).adPtr = s.adPtr := rfl
@[simp] theorem dropTransaction_adLen (s : State) : (dropTransaction s).adLen = s.adLen := rfl
@[simp] theorem dropTransaction_inPtr (s : State) : (dropTransaction s).inPtr = s.inPtr := rfl
@[simp] theorem dropTransaction_inLen (s : State) : (dropTransaction s).inLen = s.inLen := rfl
@[simp] theorem dropTransaction_outPtr (s : State) : (dropTransaction s).outPtr = s.outPtr := rfl
@[simp] theorem dropTransaction_psel (s : State) : (dropTransaction s).psel = s.psel := rfl
@[simp] theorem dropTransaction_rounds (s : State) : (dropTransaction s).rounds = s.rounds := rfl
@[simp] theorem dropTransaction_start (s : State) : (dropTransaction s).start = s.start := rfl
@[simp] theorem dropTransaction_outLen (s : State) : (dropTransaction s).outLen = s.outLen := rfl
@[simp] theorem dropTransaction_st (s : State) : (dropTransaction s).st = s.st := rfl
@[simp] theorem dropTransaction_kl (s : State) : (dropTransaction s).kl = s.kl := rfl
@[simp] theorem dropTransaction_nl (s : State) : (dropTransaction s).nl = s.nl := rfl
@[simp] theorem dropTransaction_tc (s : State) : (dropTransaction s).tc = s.tc := rfl
@[simp] theorem dropTransaction_ts (s : State) : (dropTransaction s).ts = s.ts := rfl
@[simp] theorem dropTransaction_mask (s : State) : (dropTransaction s).mask = s.mask := rfl
@[simp] theorem dropTransaction_op (s : State) : (dropTransaction s).op = s.op := rfl
@[simp] theorem dropTransaction_adOff (s : State) : (dropTransaction s).adOff = s.adOff := rfl
@[simp] theorem dropTransaction_mOff (s : State) : (dropTransaction s).mOff = s.mOff := rfl
@[simp] theorem dropTransaction_mLen (s : State) : (dropTransaction s).mLen = s.mLen := rfl
@[simp] theorem dropTransaction_buf (s : State) : (dropTransaction s).buf = s.buf := rfl
@[simp] theorem dropTransaction_agenda (s : State) : (dropTransaction s).agenda = s.agenda := rfl
@[simp] theorem dropTransaction_response (s : State) : (dropTransaction s).response = s.response := rfl
@[simp] theorem dropTransaction_freeCount (s : State) : (dropTransaction s).freeCount = s.freeCount := rfl

/-! `raiseInvalidParameters`. -/

@[simp] theorem raiseInvalidParameters_params (d : Detail) (s : State) :
    (raiseInvalidParameters d s).params = s.params := rfl
@[simp] theorem raiseInvalidParameters_ie (d : Detail) (s : State) : (raiseInvalidParameters d s).ie = s.ie := rfl
@[simp] theorem raiseInvalidParameters_busy (d : Detail) (s : State) :
    (raiseInvalidParameters d s).busy = s.busy := rfl
@[simp] theorem raiseInvalidParameters_done (d : Detail) (s : State) :
    (raiseInvalidParameters d s).done = s.done := rfl
@[simp] theorem raiseInvalidParameters_result (d : Detail) (s : State) :
    (raiseInvalidParameters d s).result = .invalidParameters := rfl
@[simp] theorem raiseInvalidParameters_phase (d : Detail) (s : State) :
    (raiseInvalidParameters d s).phase = .wipe := rfl
@[simp] theorem raiseInvalidParameters_hostErr (d : Detail) (s : State) :
    (raiseInvalidParameters d s).hostErr = s.hostErr := rfl
@[simp] theorem raiseInvalidParameters_detail (d : Detail) (s : State) :
    (raiseInvalidParameters d s).detail = d := rfl
@[simp] theorem raiseInvalidParameters_family (d : Detail) (s : State) :
    (raiseInvalidParameters d s).family = s.family := rfl
@[simp] theorem raiseInvalidParameters_keyLen (d : Detail) (s : State) :
    (raiseInvalidParameters d s).keyLen = s.keyLen := rfl
@[simp] theorem raiseInvalidParameters_nonceLen (d : Detail) (s : State) :
    (raiseInvalidParameters d s).nonceLen = s.nonceLen := rfl
@[simp] theorem raiseInvalidParameters_keyPtr (d : Detail) (s : State) :
    (raiseInvalidParameters d s).keyPtr = s.keyPtr := rfl
@[simp] theorem raiseInvalidParameters_noncePtr (d : Detail) (s : State) :
    (raiseInvalidParameters d s).noncePtr = s.noncePtr := rfl
@[simp] theorem raiseInvalidParameters_adPtr (d : Detail) (s : State) :
    (raiseInvalidParameters d s).adPtr = s.adPtr := rfl
@[simp] theorem raiseInvalidParameters_adLen (d : Detail) (s : State) :
    (raiseInvalidParameters d s).adLen = s.adLen := rfl
@[simp] theorem raiseInvalidParameters_inPtr (d : Detail) (s : State) :
    (raiseInvalidParameters d s).inPtr = s.inPtr := rfl
@[simp] theorem raiseInvalidParameters_inLen (d : Detail) (s : State) :
    (raiseInvalidParameters d s).inLen = s.inLen := rfl
@[simp] theorem raiseInvalidParameters_outPtr (d : Detail) (s : State) :
    (raiseInvalidParameters d s).outPtr = s.outPtr := rfl
@[simp] theorem raiseInvalidParameters_psel (d : Detail) (s : State) :
    (raiseInvalidParameters d s).psel = s.psel := rfl
@[simp] theorem raiseInvalidParameters_rounds (d : Detail) (s : State) :
    (raiseInvalidParameters d s).rounds = s.rounds := rfl
@[simp] theorem raiseInvalidParameters_start (d : Detail) (s : State) :
    (raiseInvalidParameters d s).start = s.start := rfl
@[simp] theorem raiseInvalidParameters_outLen (d : Detail) (s : State) :
    (raiseInvalidParameters d s).outLen = 0#32 := rfl
@[simp] theorem raiseInvalidParameters_st (d : Detail) (s : State) : (raiseInvalidParameters d s).st = s.st := rfl
@[simp] theorem raiseInvalidParameters_kl (d : Detail) (s : State) : (raiseInvalidParameters d s).kl = s.kl := rfl
@[simp] theorem raiseInvalidParameters_nl (d : Detail) (s : State) : (raiseInvalidParameters d s).nl = s.nl := rfl
@[simp] theorem raiseInvalidParameters_tc (d : Detail) (s : State) : (raiseInvalidParameters d s).tc = s.tc := rfl
@[simp] theorem raiseInvalidParameters_ts (d : Detail) (s : State) : (raiseInvalidParameters d s).ts = s.ts := rfl
@[simp] theorem raiseInvalidParameters_mask (d : Detail) (s : State) :
    (raiseInvalidParameters d s).mask = s.mask := rfl
@[simp] theorem raiseInvalidParameters_op (d : Detail) (s : State) : (raiseInvalidParameters d s).op = s.op := rfl
@[simp] theorem raiseInvalidParameters_adOff (d : Detail) (s : State) :
    (raiseInvalidParameters d s).adOff = s.adOff := rfl
@[simp] theorem raiseInvalidParameters_mOff (d : Detail) (s : State) :
    (raiseInvalidParameters d s).mOff = s.mOff := rfl
@[simp] theorem raiseInvalidParameters_mLen (d : Detail) (s : State) :
    (raiseInvalidParameters d s).mLen = s.mLen := rfl
@[simp] theorem raiseInvalidParameters_buf (d : Detail) (s : State) : (raiseInvalidParameters d s).buf = s.buf := rfl
@[simp] theorem raiseInvalidParameters_agenda (d : Detail) (s : State) :
    (raiseInvalidParameters d s).agenda = s.agenda := rfl
@[simp] theorem raiseInvalidParameters_response (d : Detail) (s : State) :
    (raiseInvalidParameters d s).response = s.response := rfl
@[simp] theorem raiseInvalidParameters_freeCount (d : Detail) (s : State) :
    (raiseInvalidParameters d s).freeCount = s.freeCount := rfl

/-! `clearInternals`. -/

@[simp] theorem clearInternals_params (s : State) : (clearInternals s).params = s.params := rfl
@[simp] theorem clearInternals_ie (s : State) : (clearInternals s).ie = s.ie := rfl
@[simp] theorem clearInternals_busy (s : State) : (clearInternals s).busy = s.busy := rfl
@[simp] theorem clearInternals_done (s : State) : (clearInternals s).done = s.done := rfl
@[simp] theorem clearInternals_result (s : State) : (clearInternals s).result = s.result := rfl
@[simp] theorem clearInternals_phase (s : State) : (clearInternals s).phase = s.phase := rfl
@[simp] theorem clearInternals_hostErr (s : State) : (clearInternals s).hostErr = s.hostErr := rfl
@[simp] theorem clearInternals_detail (s : State) : (clearInternals s).detail = s.detail := rfl
@[simp] theorem clearInternals_family (s : State) : (clearInternals s).family = s.family := rfl
@[simp] theorem clearInternals_keyLen (s : State) : (clearInternals s).keyLen = s.keyLen := rfl
@[simp] theorem clearInternals_nonceLen (s : State) : (clearInternals s).nonceLen = s.nonceLen := rfl
@[simp] theorem clearInternals_keyPtr (s : State) : (clearInternals s).keyPtr = s.keyPtr := rfl
@[simp] theorem clearInternals_noncePtr (s : State) : (clearInternals s).noncePtr = s.noncePtr := rfl
@[simp] theorem clearInternals_adPtr (s : State) : (clearInternals s).adPtr = s.adPtr := rfl
@[simp] theorem clearInternals_adLen (s : State) : (clearInternals s).adLen = s.adLen := rfl
@[simp] theorem clearInternals_inPtr (s : State) : (clearInternals s).inPtr = s.inPtr := rfl
@[simp] theorem clearInternals_inLen (s : State) : (clearInternals s).inLen = s.inLen := rfl
@[simp] theorem clearInternals_outPtr (s : State) : (clearInternals s).outPtr = s.outPtr := rfl
@[simp] theorem clearInternals_psel (s : State) : (clearInternals s).psel = s.psel := rfl
@[simp] theorem clearInternals_rounds (s : State) : (clearInternals s).rounds = s.rounds := rfl
@[simp] theorem clearInternals_start (s : State) : (clearInternals s).start = s.start := rfl
@[simp] theorem clearInternals_outLen (s : State) : (clearInternals s).outLen = s.outLen := rfl
@[simp] theorem clearInternals_st (s : State) : (clearInternals s).st = zeros s.params.sMax := rfl
@[simp] theorem clearInternals_kl (s : State) : (clearInternals s).kl = zeros Config.latchBytes := rfl
@[simp] theorem clearInternals_nl (s : State) : (clearInternals s).nl = zeros Config.latchBytes := rfl
@[simp] theorem clearInternals_tc (s : State) : (clearInternals s).tc = zeros Config.latchBytes := rfl
@[simp] theorem clearInternals_ts (s : State) : (clearInternals s).ts = zeros Config.latchBytes := rfl
@[simp] theorem clearInternals_mask (s : State) : (clearInternals s).mask = 0#8 := rfl
@[simp] theorem clearInternals_op (s : State) : (clearInternals s).op = 0#4 := rfl
@[simp] theorem clearInternals_adOff (s : State) : (clearInternals s).adOff = 0#32 := rfl
@[simp] theorem clearInternals_mOff (s : State) : (clearInternals s).mOff = 0#32 := rfl
@[simp] theorem clearInternals_mLen (s : State) : (clearInternals s).mLen = 0#32 := rfl
@[simp] theorem clearInternals_buf (s : State) : (clearInternals s).buf = s.buf := rfl
@[simp] theorem clearInternals_agenda (s : State) : (clearInternals s).agenda = s.agenda := rfl
@[simp] theorem clearInternals_response (s : State) : (clearInternals s).response = s.response := rfl
@[simp] theorem clearInternals_freeCount (s : State) : (clearInternals s).freeCount = s.freeCount := rfl

/-! `wipe`. -/

@[simp] theorem wipe_params (s : State) : (wipe s).params = s.params := rfl
@[simp] theorem wipe_ie (s : State) : (wipe s).ie = s.ie := rfl
@[simp] theorem wipe_busy (s : State) : (wipe s).busy = false := rfl
@[simp] theorem wipe_done (s : State) : (wipe s).done = true := rfl
@[simp] theorem wipe_result (s : State) : (wipe s).result = s.result := rfl
@[simp] theorem wipe_phase (s : State) : (wipe s).phase = .idle := rfl
@[simp] theorem wipe_hostErr (s : State) : (wipe s).hostErr = s.hostErr := rfl
@[simp] theorem wipe_detail (s : State) : (wipe s).detail = s.detail := rfl
@[simp] theorem wipe_family (s : State) : (wipe s).family = s.family := rfl
@[simp] theorem wipe_keyLen (s : State) : (wipe s).keyLen = s.keyLen := rfl
@[simp] theorem wipe_nonceLen (s : State) : (wipe s).nonceLen = s.nonceLen := rfl
@[simp] theorem wipe_keyPtr (s : State) : (wipe s).keyPtr = s.keyPtr := rfl
@[simp] theorem wipe_noncePtr (s : State) : (wipe s).noncePtr = s.noncePtr := rfl
@[simp] theorem wipe_adPtr (s : State) : (wipe s).adPtr = s.adPtr := rfl
@[simp] theorem wipe_adLen (s : State) : (wipe s).adLen = s.adLen := rfl
@[simp] theorem wipe_inPtr (s : State) : (wipe s).inPtr = s.inPtr := rfl
@[simp] theorem wipe_inLen (s : State) : (wipe s).inLen = s.inLen := rfl
@[simp] theorem wipe_outPtr (s : State) : (wipe s).outPtr = s.outPtr := rfl
@[simp] theorem wipe_psel (s : State) : (wipe s).psel = s.psel := rfl
@[simp] theorem wipe_rounds (s : State) : (wipe s).rounds = s.rounds := rfl
@[simp] theorem wipe_start (s : State) : (wipe s).start = s.start := rfl
@[simp] theorem wipe_outLen (s : State) : (wipe s).outLen = s.outLen := rfl
@[simp] theorem wipe_st (s : State) : (wipe s).st = zeros s.params.sMax := rfl
@[simp] theorem wipe_kl (s : State) : (wipe s).kl = zeros Config.latchBytes := rfl
@[simp] theorem wipe_nl (s : State) : (wipe s).nl = zeros Config.latchBytes := rfl
@[simp] theorem wipe_tc (s : State) : (wipe s).tc = zeros Config.latchBytes := rfl
@[simp] theorem wipe_ts (s : State) : (wipe s).ts = zeros Config.latchBytes := rfl
@[simp] theorem wipe_mask (s : State) : (wipe s).mask = 0#8 := rfl
@[simp] theorem wipe_op (s : State) : (wipe s).op = 0#4 := rfl
@[simp] theorem wipe_adOff (s : State) : (wipe s).adOff = 0#32 := rfl
@[simp] theorem wipe_mOff (s : State) : (wipe s).mOff = 0#32 := rfl
@[simp] theorem wipe_mLen (s : State) : (wipe s).mLen = 0#32 := rfl
@[simp] theorem wipe_buf (s : State) : (wipe s).buf = s.buf := rfl
@[simp] theorem wipe_agenda (s : State) : (wipe s).agenda = s.agenda := rfl
@[simp] theorem wipe_response (s : State) : (wipe s).response = s.response := rfl
@[simp] theorem wipe_freeCount (s : State) : (wipe s).freeCount = s.freeCount := rfl

/-! `zeroizeBuf`. -/

@[simp] theorem zeroizeBuf_params (s : State) : (zeroizeBuf s).params = s.params := rfl
@[simp] theorem zeroizeBuf_ie (s : State) : (zeroizeBuf s).ie = s.ie := rfl
@[simp] theorem zeroizeBuf_busy (s : State) : (zeroizeBuf s).busy = s.busy := rfl
@[simp] theorem zeroizeBuf_done (s : State) : (zeroizeBuf s).done = s.done := rfl
@[simp] theorem zeroizeBuf_result (s : State) : (zeroizeBuf s).result = .ok := rfl
@[simp] theorem zeroizeBuf_phase (s : State) : (zeroizeBuf s).phase = .wipe := rfl
@[simp] theorem zeroizeBuf_hostErr (s : State) : (zeroizeBuf s).hostErr = s.hostErr := rfl
@[simp] theorem zeroizeBuf_detail (s : State) : (zeroizeBuf s).detail = .none := rfl
@[simp] theorem zeroizeBuf_family (s : State) : (zeroizeBuf s).family = s.family := rfl
@[simp] theorem zeroizeBuf_keyLen (s : State) : (zeroizeBuf s).keyLen = s.keyLen := rfl
@[simp] theorem zeroizeBuf_nonceLen (s : State) : (zeroizeBuf s).nonceLen = s.nonceLen := rfl
@[simp] theorem zeroizeBuf_keyPtr (s : State) : (zeroizeBuf s).keyPtr = s.keyPtr := rfl
@[simp] theorem zeroizeBuf_noncePtr (s : State) : (zeroizeBuf s).noncePtr = s.noncePtr := rfl
@[simp] theorem zeroizeBuf_adPtr (s : State) : (zeroizeBuf s).adPtr = s.adPtr := rfl
@[simp] theorem zeroizeBuf_adLen (s : State) : (zeroizeBuf s).adLen = s.adLen := rfl
@[simp] theorem zeroizeBuf_inPtr (s : State) : (zeroizeBuf s).inPtr = s.inPtr := rfl
@[simp] theorem zeroizeBuf_inLen (s : State) : (zeroizeBuf s).inLen = s.inLen := rfl
@[simp] theorem zeroizeBuf_outPtr (s : State) : (zeroizeBuf s).outPtr = s.outPtr := rfl
@[simp] theorem zeroizeBuf_psel (s : State) : (zeroizeBuf s).psel = s.psel := rfl
@[simp] theorem zeroizeBuf_rounds (s : State) : (zeroizeBuf s).rounds = s.rounds := rfl
@[simp] theorem zeroizeBuf_start (s : State) : (zeroizeBuf s).start = s.start := rfl
@[simp] theorem zeroizeBuf_outLen (s : State) : (zeroizeBuf s).outLen = 0#32 := rfl
@[simp] theorem zeroizeBuf_st (s : State) : (zeroizeBuf s).st = s.st := rfl
@[simp] theorem zeroizeBuf_kl (s : State) : (zeroizeBuf s).kl = s.kl := rfl
@[simp] theorem zeroizeBuf_nl (s : State) : (zeroizeBuf s).nl = s.nl := rfl
@[simp] theorem zeroizeBuf_tc (s : State) : (zeroizeBuf s).tc = s.tc := rfl
@[simp] theorem zeroizeBuf_ts (s : State) : (zeroizeBuf s).ts = s.ts := rfl
@[simp] theorem zeroizeBuf_mask (s : State) : (zeroizeBuf s).mask = s.mask := rfl
@[simp] theorem zeroizeBuf_op (s : State) : (zeroizeBuf s).op = s.op := rfl
@[simp] theorem zeroizeBuf_adOff (s : State) : (zeroizeBuf s).adOff = s.adOff := rfl
@[simp] theorem zeroizeBuf_mOff (s : State) : (zeroizeBuf s).mOff = s.mOff := rfl
@[simp] theorem zeroizeBuf_mLen (s : State) : (zeroizeBuf s).mLen = s.mLen := rfl
@[simp] theorem zeroizeBuf_buf (s : State) : (zeroizeBuf s).buf = [] := rfl
@[simp] theorem zeroizeBuf_agenda (s : State) : (zeroizeBuf s).agenda = s.agenda := rfl
@[simp] theorem zeroizeBuf_response (s : State) : (zeroizeBuf s).response = s.response := rfl
@[simp] theorem zeroizeBuf_freeCount (s : State) : (zeroizeBuf s).freeCount = s.freeCount := rfl

/-! `resetClear`. -/

@[simp] theorem resetClear_params (s : State) : (resetClear s).params = s.params := rfl
@[simp] theorem resetClear_ie (s : State) : (resetClear s).ie = s.ie := rfl
@[simp] theorem resetClear_busy (s : State) : (resetClear s).busy = false := rfl
@[simp] theorem resetClear_done (s : State) : (resetClear s).done = s.done := rfl
@[simp] theorem resetClear_result (s : State) : (resetClear s).result = s.result := rfl
@[simp] theorem resetClear_phase (s : State) : (resetClear s).phase = .idle := rfl
@[simp] theorem resetClear_hostErr (s : State) : (resetClear s).hostErr = s.hostErr := rfl
@[simp] theorem resetClear_detail (s : State) : (resetClear s).detail = s.detail := rfl
@[simp] theorem resetClear_family (s : State) : (resetClear s).family = s.family := rfl
@[simp] theorem resetClear_keyLen (s : State) : (resetClear s).keyLen = s.keyLen := rfl
@[simp] theorem resetClear_nonceLen (s : State) : (resetClear s).nonceLen = s.nonceLen := rfl
@[simp] theorem resetClear_keyPtr (s : State) : (resetClear s).keyPtr = s.keyPtr := rfl
@[simp] theorem resetClear_noncePtr (s : State) : (resetClear s).noncePtr = s.noncePtr := rfl
@[simp] theorem resetClear_adPtr (s : State) : (resetClear s).adPtr = s.adPtr := rfl
@[simp] theorem resetClear_adLen (s : State) : (resetClear s).adLen = s.adLen := rfl
@[simp] theorem resetClear_inPtr (s : State) : (resetClear s).inPtr = s.inPtr := rfl
@[simp] theorem resetClear_inLen (s : State) : (resetClear s).inLen = s.inLen := rfl
@[simp] theorem resetClear_outPtr (s : State) : (resetClear s).outPtr = s.outPtr := rfl
@[simp] theorem resetClear_psel (s : State) : (resetClear s).psel = s.psel := rfl
@[simp] theorem resetClear_rounds (s : State) : (resetClear s).rounds = s.rounds := rfl
@[simp] theorem resetClear_start (s : State) : (resetClear s).start = s.start := rfl
@[simp] theorem resetClear_outLen (s : State) : (resetClear s).outLen = s.outLen := rfl
@[simp] theorem resetClear_st (s : State) : (resetClear s).st = s.st := rfl
@[simp] theorem resetClear_kl (s : State) : (resetClear s).kl = s.kl := rfl
@[simp] theorem resetClear_nl (s : State) : (resetClear s).nl = s.nl := rfl
@[simp] theorem resetClear_tc (s : State) : (resetClear s).tc = s.tc := rfl
@[simp] theorem resetClear_ts (s : State) : (resetClear s).ts = s.ts := rfl
@[simp] theorem resetClear_mask (s : State) : (resetClear s).mask = s.mask := rfl
@[simp] theorem resetClear_op (s : State) : (resetClear s).op = s.op := rfl
@[simp] theorem resetClear_adOff (s : State) : (resetClear s).adOff = s.adOff := rfl
@[simp] theorem resetClear_mOff (s : State) : (resetClear s).mOff = s.mOff := rfl
@[simp] theorem resetClear_mLen (s : State) : (resetClear s).mLen = s.mLen := rfl
@[simp] theorem resetClear_buf (s : State) : (resetClear s).buf = [] := rfl
@[simp] theorem resetClear_agenda (s : State) : (resetClear s).agenda = s.agenda := rfl
@[simp] theorem resetClear_response (s : State) : (resetClear s).response = s.response := rfl
@[simp] theorem resetClear_freeCount (s : State) : (resetClear s).freeCount = s.freeCount := rfl

/-! `resetState`. -/

@[simp] theorem resetState_params (s : State) : (resetState s).params = s.params := rfl
@[simp] theorem resetState_ie (s : State) : (resetState s).ie = false := rfl
@[simp] theorem resetState_busy (s : State) : (resetState s).busy = true := rfl
@[simp] theorem resetState_done (s : State) : (resetState s).done = false := rfl
@[simp] theorem resetState_result (s : State) : (resetState s).result = .ok := rfl
@[simp] theorem resetState_phase (s : State) : (resetState s).phase = .bufclr := rfl
@[simp] theorem resetState_hostErr (s : State) : (resetState s).hostErr = false := rfl
@[simp] theorem resetState_detail (s : State) : (resetState s).detail = .none := rfl
@[simp] theorem resetState_family (s : State) : (resetState s).family = 0#8 := rfl
@[simp] theorem resetState_keyLen (s : State) : (resetState s).keyLen = 0#8 := rfl
@[simp] theorem resetState_nonceLen (s : State) : (resetState s).nonceLen = 0#8 := rfl
@[simp] theorem resetState_keyPtr (s : State) : (resetState s).keyPtr = 0#32 := rfl
@[simp] theorem resetState_noncePtr (s : State) : (resetState s).noncePtr = 0#32 := rfl
@[simp] theorem resetState_adPtr (s : State) : (resetState s).adPtr = 0#32 := rfl
@[simp] theorem resetState_adLen (s : State) : (resetState s).adLen = 0#32 := rfl
@[simp] theorem resetState_inPtr (s : State) : (resetState s).inPtr = 0#32 := rfl
@[simp] theorem resetState_inLen (s : State) : (resetState s).inLen = 0#32 := rfl
@[simp] theorem resetState_outPtr (s : State) : (resetState s).outPtr = 0#32 := rfl
@[simp] theorem resetState_psel (s : State) : (resetState s).psel = 0#8 := rfl
@[simp] theorem resetState_rounds (s : State) : (resetState s).rounds = 0#8 := rfl
@[simp] theorem resetState_start (s : State) : (resetState s).start = 0#8 := rfl
@[simp] theorem resetState_outLen (s : State) : (resetState s).outLen = 0#32 := rfl
@[simp] theorem resetState_st (s : State) : (resetState s).st = zeros s.params.sMax := rfl
@[simp] theorem resetState_kl (s : State) : (resetState s).kl = zeros Config.latchBytes := rfl
@[simp] theorem resetState_nl (s : State) : (resetState s).nl = zeros Config.latchBytes := rfl
@[simp] theorem resetState_tc (s : State) : (resetState s).tc = zeros Config.latchBytes := rfl
@[simp] theorem resetState_ts (s : State) : (resetState s).ts = zeros Config.latchBytes := rfl
@[simp] theorem resetState_mask (s : State) : (resetState s).mask = 0#8 := rfl
@[simp] theorem resetState_op (s : State) : (resetState s).op = 0#4 := rfl
@[simp] theorem resetState_adOff (s : State) : (resetState s).adOff = 0#32 := rfl
@[simp] theorem resetState_mOff (s : State) : (resetState s).mOff = 0#32 := rfl
@[simp] theorem resetState_mLen (s : State) : (resetState s).mLen = 0#32 := rfl
@[simp] theorem resetState_buf (s : State) : (resetState s).buf = unspecifiedBuf s.freeCount s.params.bufSize := rfl
@[simp] theorem resetState_agenda (s : State) : (resetState s).agenda = s.agenda := rfl
@[simp] theorem resetState_response (s : State) : (resetState s).response = s.response := rfl
@[simp] theorem resetState_freeCount (s : State) : (resetState s).freeCount = s.freeCount + 1 := rfl

/-! `writeStatus`. -/

@[simp] theorem writeStatus_params (v : Word) (s : State) : (writeStatus v s).params = s.params := rfl
@[simp] theorem writeStatus_ie (v : Word) (s : State) : (writeStatus v s).ie = s.ie := rfl
@[simp] theorem writeStatus_busy (v : Word) (s : State) : (writeStatus v s).busy = s.busy := rfl
@[simp] theorem writeStatus_done (v : Word) (s : State) : (writeStatus v s).done = (s.done && !v.getLsbD 1) := rfl
@[simp] theorem writeStatus_result (v : Word) (s : State) : (writeStatus v s).result = s.result := rfl
@[simp] theorem writeStatus_phase (v : Word) (s : State) : (writeStatus v s).phase = s.phase := rfl
@[simp] theorem writeStatus_hostErr (v : Word) (s : State) :
    (writeStatus v s).hostErr = (s.hostErr && !v.getLsbD 8) := rfl
@[simp] theorem writeStatus_detail (v : Word) (s : State) : (writeStatus v s).detail = s.detail := rfl
@[simp] theorem writeStatus_family (v : Word) (s : State) : (writeStatus v s).family = s.family := rfl
@[simp] theorem writeStatus_keyLen (v : Word) (s : State) : (writeStatus v s).keyLen = s.keyLen := rfl
@[simp] theorem writeStatus_nonceLen (v : Word) (s : State) : (writeStatus v s).nonceLen = s.nonceLen := rfl
@[simp] theorem writeStatus_keyPtr (v : Word) (s : State) : (writeStatus v s).keyPtr = s.keyPtr := rfl
@[simp] theorem writeStatus_noncePtr (v : Word) (s : State) : (writeStatus v s).noncePtr = s.noncePtr := rfl
@[simp] theorem writeStatus_adPtr (v : Word) (s : State) : (writeStatus v s).adPtr = s.adPtr := rfl
@[simp] theorem writeStatus_adLen (v : Word) (s : State) : (writeStatus v s).adLen = s.adLen := rfl
@[simp] theorem writeStatus_inPtr (v : Word) (s : State) : (writeStatus v s).inPtr = s.inPtr := rfl
@[simp] theorem writeStatus_inLen (v : Word) (s : State) : (writeStatus v s).inLen = s.inLen := rfl
@[simp] theorem writeStatus_outPtr (v : Word) (s : State) : (writeStatus v s).outPtr = s.outPtr := rfl
@[simp] theorem writeStatus_psel (v : Word) (s : State) : (writeStatus v s).psel = s.psel := rfl
@[simp] theorem writeStatus_rounds (v : Word) (s : State) : (writeStatus v s).rounds = s.rounds := rfl
@[simp] theorem writeStatus_start (v : Word) (s : State) : (writeStatus v s).start = s.start := rfl
@[simp] theorem writeStatus_outLen (v : Word) (s : State) : (writeStatus v s).outLen = s.outLen := rfl
@[simp] theorem writeStatus_st (v : Word) (s : State) : (writeStatus v s).st = s.st := rfl
@[simp] theorem writeStatus_kl (v : Word) (s : State) : (writeStatus v s).kl = s.kl := rfl
@[simp] theorem writeStatus_nl (v : Word) (s : State) : (writeStatus v s).nl = s.nl := rfl
@[simp] theorem writeStatus_tc (v : Word) (s : State) : (writeStatus v s).tc = s.tc := rfl
@[simp] theorem writeStatus_ts (v : Word) (s : State) : (writeStatus v s).ts = s.ts := rfl
@[simp] theorem writeStatus_mask (v : Word) (s : State) : (writeStatus v s).mask = s.mask := rfl
@[simp] theorem writeStatus_op (v : Word) (s : State) : (writeStatus v s).op = s.op := rfl
@[simp] theorem writeStatus_adOff (v : Word) (s : State) : (writeStatus v s).adOff = s.adOff := rfl
@[simp] theorem writeStatus_mOff (v : Word) (s : State) : (writeStatus v s).mOff = s.mOff := rfl
@[simp] theorem writeStatus_mLen (v : Word) (s : State) : (writeStatus v s).mLen = s.mLen := rfl
@[simp] theorem writeStatus_buf (v : Word) (s : State) : (writeStatus v s).buf = s.buf := rfl
@[simp] theorem writeStatus_agenda (v : Word) (s : State) : (writeStatus v s).agenda = s.agenda := rfl
@[simp] theorem writeStatus_response (v : Word) (s : State) : (writeStatus v s).response = s.response := rfl
@[simp] theorem writeStatus_freeCount (v : Word) (s : State) : (writeStatus v s).freeCount = s.freeCount := rfl

/-! `respond`. -/

@[simp] theorem respond_params (r : BusResponse) (s : State) : (respond r s).params = s.params := rfl
@[simp] theorem respond_ie (r : BusResponse) (s : State) : (respond r s).ie = s.ie := rfl
@[simp] theorem respond_busy (r : BusResponse) (s : State) : (respond r s).busy = s.busy := rfl
@[simp] theorem respond_done (r : BusResponse) (s : State) : (respond r s).done = s.done := rfl
@[simp] theorem respond_result (r : BusResponse) (s : State) : (respond r s).result = s.result := rfl
@[simp] theorem respond_phase (r : BusResponse) (s : State) : (respond r s).phase = s.phase := rfl
@[simp] theorem respond_hostErr (r : BusResponse) (s : State) : (respond r s).hostErr = s.hostErr := rfl
@[simp] theorem respond_detail (r : BusResponse) (s : State) : (respond r s).detail = s.detail := rfl
@[simp] theorem respond_family (r : BusResponse) (s : State) : (respond r s).family = s.family := rfl
@[simp] theorem respond_keyLen (r : BusResponse) (s : State) : (respond r s).keyLen = s.keyLen := rfl
@[simp] theorem respond_nonceLen (r : BusResponse) (s : State) : (respond r s).nonceLen = s.nonceLen := rfl
@[simp] theorem respond_keyPtr (r : BusResponse) (s : State) : (respond r s).keyPtr = s.keyPtr := rfl
@[simp] theorem respond_noncePtr (r : BusResponse) (s : State) : (respond r s).noncePtr = s.noncePtr := rfl
@[simp] theorem respond_adPtr (r : BusResponse) (s : State) : (respond r s).adPtr = s.adPtr := rfl
@[simp] theorem respond_adLen (r : BusResponse) (s : State) : (respond r s).adLen = s.adLen := rfl
@[simp] theorem respond_inPtr (r : BusResponse) (s : State) : (respond r s).inPtr = s.inPtr := rfl
@[simp] theorem respond_inLen (r : BusResponse) (s : State) : (respond r s).inLen = s.inLen := rfl
@[simp] theorem respond_outPtr (r : BusResponse) (s : State) : (respond r s).outPtr = s.outPtr := rfl
@[simp] theorem respond_psel (r : BusResponse) (s : State) : (respond r s).psel = s.psel := rfl
@[simp] theorem respond_rounds (r : BusResponse) (s : State) : (respond r s).rounds = s.rounds := rfl
@[simp] theorem respond_start (r : BusResponse) (s : State) : (respond r s).start = s.start := rfl
@[simp] theorem respond_outLen (r : BusResponse) (s : State) : (respond r s).outLen = s.outLen := rfl
@[simp] theorem respond_st (r : BusResponse) (s : State) : (respond r s).st = s.st := rfl
@[simp] theorem respond_kl (r : BusResponse) (s : State) : (respond r s).kl = s.kl := rfl
@[simp] theorem respond_nl (r : BusResponse) (s : State) : (respond r s).nl = s.nl := rfl
@[simp] theorem respond_tc (r : BusResponse) (s : State) : (respond r s).tc = s.tc := rfl
@[simp] theorem respond_ts (r : BusResponse) (s : State) : (respond r s).ts = s.ts := rfl
@[simp] theorem respond_mask (r : BusResponse) (s : State) : (respond r s).mask = s.mask := rfl
@[simp] theorem respond_op (r : BusResponse) (s : State) : (respond r s).op = s.op := rfl
@[simp] theorem respond_adOff (r : BusResponse) (s : State) : (respond r s).adOff = s.adOff := rfl
@[simp] theorem respond_mOff (r : BusResponse) (s : State) : (respond r s).mOff = s.mOff := rfl
@[simp] theorem respond_mLen (r : BusResponse) (s : State) : (respond r s).mLen = s.mLen := rfl
@[simp] theorem respond_buf (r : BusResponse) (s : State) : (respond r s).buf = s.buf := rfl
@[simp] theorem respond_agenda (r : BusResponse) (s : State) : (respond r s).agenda = s.agenda := rfl
@[simp] theorem respond_response (r : BusResponse) (s : State) : (respond r s).response = r := rfl
@[simp] theorem respond_freeCount (r : BusResponse) (s : State) : (respond r s).freeCount = s.freeCount := rfl

/-! `latchOperands`. -/

@[simp] theorem latchOperands_params (d : Dir) (P : Profile) (k n t : Bytes) (s : State) :
    (latchOperands d P k n t s).params = s.params := rfl
@[simp] theorem latchOperands_ie (d : Dir) (P : Profile) (k n t : Bytes) (s : State) :
    (latchOperands d P k n t s).ie = s.ie := rfl
@[simp] theorem latchOperands_busy (d : Dir) (P : Profile) (k n t : Bytes) (s : State) :
    (latchOperands d P k n t s).busy = s.busy := rfl
@[simp] theorem latchOperands_done (d : Dir) (P : Profile) (k n t : Bytes) (s : State) :
    (latchOperands d P k n t s).done = s.done := rfl
@[simp] theorem latchOperands_result (d : Dir) (P : Profile) (k n t : Bytes) (s : State) :
    (latchOperands d P k n t s).result = s.result := rfl
@[simp] theorem latchOperands_phase (d : Dir) (P : Profile) (k n t : Bytes) (s : State) :
    (latchOperands d P k n t s).phase = .init := rfl
@[simp] theorem latchOperands_hostErr (d : Dir) (P : Profile) (k n t : Bytes) (s : State) :
    (latchOperands d P k n t s).hostErr = s.hostErr := rfl
@[simp] theorem latchOperands_detail (d : Dir) (P : Profile) (k n t : Bytes) (s : State) :
    (latchOperands d P k n t s).detail = s.detail := rfl
@[simp] theorem latchOperands_family (d : Dir) (P : Profile) (k n t : Bytes) (s : State) :
    (latchOperands d P k n t s).family = s.family := rfl
@[simp] theorem latchOperands_keyLen (d : Dir) (P : Profile) (k n t : Bytes) (s : State) :
    (latchOperands d P k n t s).keyLen = s.keyLen := rfl
@[simp] theorem latchOperands_nonceLen (d : Dir) (P : Profile) (k n t : Bytes) (s : State) :
    (latchOperands d P k n t s).nonceLen = s.nonceLen := rfl
@[simp] theorem latchOperands_keyPtr (d : Dir) (P : Profile) (k n t : Bytes) (s : State) :
    (latchOperands d P k n t s).keyPtr = s.keyPtr := rfl
@[simp] theorem latchOperands_noncePtr (d : Dir) (P : Profile) (k n t : Bytes) (s : State) :
    (latchOperands d P k n t s).noncePtr = s.noncePtr := rfl
@[simp] theorem latchOperands_adPtr (d : Dir) (P : Profile) (k n t : Bytes) (s : State) :
    (latchOperands d P k n t s).adPtr = s.adPtr := rfl
@[simp] theorem latchOperands_adLen (d : Dir) (P : Profile) (k n t : Bytes) (s : State) :
    (latchOperands d P k n t s).adLen = s.adLen := rfl
@[simp] theorem latchOperands_inPtr (d : Dir) (P : Profile) (k n t : Bytes) (s : State) :
    (latchOperands d P k n t s).inPtr = s.inPtr := rfl
@[simp] theorem latchOperands_inLen (d : Dir) (P : Profile) (k n t : Bytes) (s : State) :
    (latchOperands d P k n t s).inLen = s.inLen := rfl
@[simp] theorem latchOperands_outPtr (d : Dir) (P : Profile) (k n t : Bytes) (s : State) :
    (latchOperands d P k n t s).outPtr = s.outPtr := rfl
@[simp] theorem latchOperands_psel (d : Dir) (P : Profile) (k n t : Bytes) (s : State) :
    (latchOperands d P k n t s).psel = s.psel := rfl
@[simp] theorem latchOperands_rounds (d : Dir) (P : Profile) (k n t : Bytes) (s : State) :
    (latchOperands d P k n t s).rounds = s.rounds := rfl
@[simp] theorem latchOperands_start (d : Dir) (P : Profile) (k n t : Bytes) (s : State) :
    (latchOperands d P k n t s).start = s.start := rfl
@[simp] theorem latchOperands_outLen (d : Dir) (P : Profile) (k n t : Bytes) (s : State) :
    (latchOperands d P k n t s).outLen = s.outLen := rfl
@[simp] theorem latchOperands_st (d : Dir) (P : Profile) (k n t : Bytes) (s : State) :
    (latchOperands d P k n t s).st = s.st := rfl
@[simp] theorem latchOperands_kl (d : Dir) (P : Profile) (k n t : Bytes) (s : State) :
    (latchOperands d P k n t s).kl = fit Config.latchBytes k := rfl
@[simp] theorem latchOperands_nl (d : Dir) (P : Profile) (k n t : Bytes) (s : State) :
    (latchOperands d P k n t s).nl = fit Config.latchBytes n := rfl
@[simp] theorem latchOperands_tc (d : Dir) (P : Profile) (k n t : Bytes) (s : State) :
    (latchOperands d P k n t s).tc = s.tc := rfl
@[simp] theorem latchOperands_ts (d : Dir) (P : Profile) (k n t : Bytes) (s : State) :
    (latchOperands d P k n t s).ts = (match d with | .enc => s.ts | .dec => fit Config.latchBytes t) := rfl
@[simp] theorem latchOperands_mask (d : Dir) (P : Profile) (k n t : Bytes) (s : State) :
    (latchOperands d P k n t s).mask = s.mask := rfl
@[simp] theorem latchOperands_op (d : Dir) (P : Profile) (k n t : Bytes) (s : State) :
    (latchOperands d P k n t s).op = s.op := rfl
@[simp] theorem latchOperands_adOff (d : Dir) (P : Profile) (k n t : Bytes) (s : State) :
    (latchOperands d P k n t s).adOff = 0#32 := rfl
@[simp] theorem latchOperands_mOff (d : Dir) (P : Profile) (k n t : Bytes) (s : State) :
    (latchOperands d P k n t s).mOff = 0#32 := rfl
@[simp] theorem latchOperands_mLen (d : Dir) (P : Profile) (k n t : Bytes) (s : State) :
    (latchOperands d P k n t s).mLen = BitVec.ofNat 32 (messageLen d P s) := rfl
@[simp] theorem latchOperands_buf (d : Dir) (P : Profile) (k n t : Bytes) (s : State) :
    (latchOperands d P k n t s).buf = s.buf := rfl
@[simp] theorem latchOperands_agenda (d : Dir) (P : Profile) (k n t : Bytes) (s : State) :
    (latchOperands d P k n t s).agenda = s.agenda := rfl
@[simp] theorem latchOperands_response (d : Dir) (P : Profile) (k n t : Bytes) (s : State) :
    (latchOperands d P k n t s).response = s.response := rfl
@[simp] theorem latchOperands_freeCount (d : Dir) (P : Profile) (k n t : Bytes) (s : State) :
    (latchOperands d P k n t s).freeCount = s.freeCount := rfl

/-! `absorbAd`. -/

@[simp] theorem absorbAd_params (P : Profile) (x : Bytes) (s : State) : (absorbAd P x s).params = s.params := rfl
@[simp] theorem absorbAd_ie (P : Profile) (x : Bytes) (s : State) : (absorbAd P x s).ie = s.ie := rfl
@[simp] theorem absorbAd_busy (P : Profile) (x : Bytes) (s : State) : (absorbAd P x s).busy = s.busy := rfl
@[simp] theorem absorbAd_done (P : Profile) (x : Bytes) (s : State) : (absorbAd P x s).done = s.done := rfl
@[simp] theorem absorbAd_result (P : Profile) (x : Bytes) (s : State) : (absorbAd P x s).result = s.result := rfl
@[simp] theorem absorbAd_phase (P : Profile) (x : Bytes) (s : State) :
    (absorbAd P x s).phase = if s.adLen.toNat ≤ s.adOff.toNat + (adBlock P s).1 then .msg else .ad := rfl
@[simp] theorem absorbAd_hostErr (P : Profile) (x : Bytes) (s : State) : (absorbAd P x s).hostErr = s.hostErr := rfl
@[simp] theorem absorbAd_detail (P : Profile) (x : Bytes) (s : State) : (absorbAd P x s).detail = s.detail := rfl
@[simp] theorem absorbAd_family (P : Profile) (x : Bytes) (s : State) : (absorbAd P x s).family = s.family := rfl
@[simp] theorem absorbAd_keyLen (P : Profile) (x : Bytes) (s : State) : (absorbAd P x s).keyLen = s.keyLen := rfl
@[simp] theorem absorbAd_nonceLen (P : Profile) (x : Bytes) (s : State) :
    (absorbAd P x s).nonceLen = s.nonceLen := rfl
@[simp] theorem absorbAd_keyPtr (P : Profile) (x : Bytes) (s : State) : (absorbAd P x s).keyPtr = s.keyPtr := rfl
@[simp] theorem absorbAd_noncePtr (P : Profile) (x : Bytes) (s : State) :
    (absorbAd P x s).noncePtr = s.noncePtr := rfl
@[simp] theorem absorbAd_adPtr (P : Profile) (x : Bytes) (s : State) : (absorbAd P x s).adPtr = s.adPtr := rfl
@[simp] theorem absorbAd_adLen (P : Profile) (x : Bytes) (s : State) : (absorbAd P x s).adLen = s.adLen := rfl
@[simp] theorem absorbAd_inPtr (P : Profile) (x : Bytes) (s : State) : (absorbAd P x s).inPtr = s.inPtr := rfl
@[simp] theorem absorbAd_inLen (P : Profile) (x : Bytes) (s : State) : (absorbAd P x s).inLen = s.inLen := rfl
@[simp] theorem absorbAd_outPtr (P : Profile) (x : Bytes) (s : State) : (absorbAd P x s).outPtr = s.outPtr := rfl
@[simp] theorem absorbAd_psel (P : Profile) (x : Bytes) (s : State) : (absorbAd P x s).psel = s.psel := rfl
@[simp] theorem absorbAd_rounds (P : Profile) (x : Bytes) (s : State) : (absorbAd P x s).rounds = s.rounds := rfl
@[simp] theorem absorbAd_start (P : Profile) (x : Bytes) (s : State) : (absorbAd P x s).start = s.start := rfl
@[simp] theorem absorbAd_outLen (P : Profile) (x : Bytes) (s : State) : (absorbAd P x s).outLen = s.outLen := rfl
@[simp] theorem absorbAd_st (P : Profile) (x : Bytes) (s : State) :
    (absorbAd P x s).st =
      famAbsorb P (s.st.take P.stateBytes) (pad x P.unitAd P.padMode) (adBlock P s).1 (domByte P (adBlock P s).2) ++ s.st.drop P.stateBytes := rfl
@[simp] theorem absorbAd_kl (P : Profile) (x : Bytes) (s : State) : (absorbAd P x s).kl = s.kl := rfl
@[simp] theorem absorbAd_nl (P : Profile) (x : Bytes) (s : State) : (absorbAd P x s).nl = s.nl := rfl
@[simp] theorem absorbAd_tc (P : Profile) (x : Bytes) (s : State) : (absorbAd P x s).tc = s.tc := rfl
@[simp] theorem absorbAd_ts (P : Profile) (x : Bytes) (s : State) : (absorbAd P x s).ts = s.ts := rfl
@[simp] theorem absorbAd_mask (P : Profile) (x : Bytes) (s : State) : (absorbAd P x s).mask = s.mask := rfl
@[simp] theorem absorbAd_op (P : Profile) (x : Bytes) (s : State) : (absorbAd P x s).op = s.op := rfl
@[simp] theorem absorbAd_adOff (P : Profile) (x : Bytes) (s : State) :
    (absorbAd P x s).adOff = BitVec.ofNat 32 (s.adOff.toNat + (adBlock P s).1) := rfl
@[simp] theorem absorbAd_mOff (P : Profile) (x : Bytes) (s : State) : (absorbAd P x s).mOff = s.mOff := rfl
@[simp] theorem absorbAd_mLen (P : Profile) (x : Bytes) (s : State) : (absorbAd P x s).mLen = s.mLen := rfl
@[simp] theorem absorbAd_buf (P : Profile) (x : Bytes) (s : State) : (absorbAd P x s).buf = s.buf := rfl
@[simp] theorem absorbAd_agenda (P : Profile) (x : Bytes) (s : State) : (absorbAd P x s).agenda = s.agenda := rfl
@[simp] theorem absorbAd_response (P : Profile) (x : Bytes) (s : State) :
    (absorbAd P x s).response = s.response := rfl
@[simp] theorem absorbAd_freeCount (P : Profile) (x : Bytes) (s : State) :
    (absorbAd P x s).freeCount = s.freeCount := rfl

/-! `advanceMsg`. -/

@[simp] theorem advanceMsg_params (d : Dir) (P : Profile) (x : Bytes) (m : Mem) (s : State) :
    (advanceMsg d P x m s).params = s.params := rfl
@[simp] theorem advanceMsg_ie (d : Dir) (P : Profile) (x : Bytes) (m : Mem) (s : State) :
    (advanceMsg d P x m s).ie = s.ie := rfl
@[simp] theorem advanceMsg_busy (d : Dir) (P : Profile) (x : Bytes) (m : Mem) (s : State) :
    (advanceMsg d P x m s).busy = s.busy := rfl
@[simp] theorem advanceMsg_done (d : Dir) (P : Profile) (x : Bytes) (m : Mem) (s : State) :
    (advanceMsg d P x m s).done = s.done := rfl
@[simp] theorem advanceMsg_result (d : Dir) (P : Profile) (x : Bytes) (m : Mem) (s : State) :
    (advanceMsg d P x m s).result = s.result := rfl
@[simp] theorem advanceMsg_phase (d : Dir) (P : Profile) (x : Bytes) (m : Mem) (s : State) :
    (advanceMsg d P x m s).phase = if s.mLen.toNat ≤ s.mOff.toNat + (msgBlock P s).1 then .final else .msg := rfl
@[simp] theorem advanceMsg_hostErr (d : Dir) (P : Profile) (x : Bytes) (m : Mem) (s : State) :
    (advanceMsg d P x m s).hostErr = s.hostErr := rfl
@[simp] theorem advanceMsg_detail (d : Dir) (P : Profile) (x : Bytes) (m : Mem) (s : State) :
    (advanceMsg d P x m s).detail = s.detail := rfl
@[simp] theorem advanceMsg_family (d : Dir) (P : Profile) (x : Bytes) (m : Mem) (s : State) :
    (advanceMsg d P x m s).family = s.family := rfl
@[simp] theorem advanceMsg_keyLen (d : Dir) (P : Profile) (x : Bytes) (m : Mem) (s : State) :
    (advanceMsg d P x m s).keyLen = s.keyLen := rfl
@[simp] theorem advanceMsg_nonceLen (d : Dir) (P : Profile) (x : Bytes) (m : Mem) (s : State) :
    (advanceMsg d P x m s).nonceLen = s.nonceLen := rfl
@[simp] theorem advanceMsg_keyPtr (d : Dir) (P : Profile) (x : Bytes) (m : Mem) (s : State) :
    (advanceMsg d P x m s).keyPtr = s.keyPtr := rfl
@[simp] theorem advanceMsg_noncePtr (d : Dir) (P : Profile) (x : Bytes) (m : Mem) (s : State) :
    (advanceMsg d P x m s).noncePtr = s.noncePtr := rfl
@[simp] theorem advanceMsg_adPtr (d : Dir) (P : Profile) (x : Bytes) (m : Mem) (s : State) :
    (advanceMsg d P x m s).adPtr = s.adPtr := rfl
@[simp] theorem advanceMsg_adLen (d : Dir) (P : Profile) (x : Bytes) (m : Mem) (s : State) :
    (advanceMsg d P x m s).adLen = s.adLen := rfl
@[simp] theorem advanceMsg_inPtr (d : Dir) (P : Profile) (x : Bytes) (m : Mem) (s : State) :
    (advanceMsg d P x m s).inPtr = s.inPtr := rfl
@[simp] theorem advanceMsg_inLen (d : Dir) (P : Profile) (x : Bytes) (m : Mem) (s : State) :
    (advanceMsg d P x m s).inLen = s.inLen := rfl
@[simp] theorem advanceMsg_outPtr (d : Dir) (P : Profile) (x : Bytes) (m : Mem) (s : State) :
    (advanceMsg d P x m s).outPtr = s.outPtr := rfl
@[simp] theorem advanceMsg_psel (d : Dir) (P : Profile) (x : Bytes) (m : Mem) (s : State) :
    (advanceMsg d P x m s).psel = s.psel := rfl
@[simp] theorem advanceMsg_rounds (d : Dir) (P : Profile) (x : Bytes) (m : Mem) (s : State) :
    (advanceMsg d P x m s).rounds = s.rounds := rfl
@[simp] theorem advanceMsg_start (d : Dir) (P : Profile) (x : Bytes) (m : Mem) (s : State) :
    (advanceMsg d P x m s).start = s.start := rfl
@[simp] theorem advanceMsg_outLen (d : Dir) (P : Profile) (x : Bytes) (m : Mem) (s : State) :
    (advanceMsg d P x m s).outLen = s.outLen := rfl
@[simp] theorem advanceMsg_st (d : Dir) (P : Profile) (x : Bytes) (m : Mem) (s : State) :
    (advanceMsg d P x m s).st = (msgOutput d P x s).1 ++ s.st.drop P.stateBytes := rfl
@[simp] theorem advanceMsg_kl (d : Dir) (P : Profile) (x : Bytes) (m : Mem) (s : State) :
    (advanceMsg d P x m s).kl = s.kl := rfl
@[simp] theorem advanceMsg_nl (d : Dir) (P : Profile) (x : Bytes) (m : Mem) (s : State) :
    (advanceMsg d P x m s).nl = s.nl := rfl
@[simp] theorem advanceMsg_tc (d : Dir) (P : Profile) (x : Bytes) (m : Mem) (s : State) :
    (advanceMsg d P x m s).tc = s.tc := rfl
@[simp] theorem advanceMsg_ts (d : Dir) (P : Profile) (x : Bytes) (m : Mem) (s : State) :
    (advanceMsg d P x m s).ts = s.ts := rfl
@[simp] theorem advanceMsg_mask (d : Dir) (P : Profile) (x : Bytes) (m : Mem) (s : State) :
    (advanceMsg d P x m s).mask = s.mask := rfl
@[simp] theorem advanceMsg_op (d : Dir) (P : Profile) (x : Bytes) (m : Mem) (s : State) :
    (advanceMsg d P x m s).op = s.op := rfl
@[simp] theorem advanceMsg_adOff (d : Dir) (P : Profile) (x : Bytes) (m : Mem) (s : State) :
    (advanceMsg d P x m s).adOff = s.adOff := rfl
@[simp] theorem advanceMsg_mOff (d : Dir) (P : Profile) (x : Bytes) (m : Mem) (s : State) :
    (advanceMsg d P x m s).mOff = BitVec.ofNat 32 (s.mOff.toNat + (msgBlock P s).1) := rfl
@[simp] theorem advanceMsg_mLen (d : Dir) (P : Profile) (x : Bytes) (m : Mem) (s : State) :
    (advanceMsg d P x m s).mLen = s.mLen := rfl
@[simp] theorem advanceMsg_buf (d : Dir) (P : Profile) (x : Bytes) (m : Mem) (s : State) :
    (advanceMsg d P x m s).buf = m := rfl
@[simp] theorem advanceMsg_agenda (d : Dir) (P : Profile) (x : Bytes) (m : Mem) (s : State) :
    (advanceMsg d P x m s).agenda = s.agenda := rfl
@[simp] theorem advanceMsg_response (d : Dir) (P : Profile) (x : Bytes) (m : Mem) (s : State) :
    (advanceMsg d P x m s).response = s.response := rfl
@[simp] theorem advanceMsg_freeCount (d : Dir) (P : Profile) (x : Bytes) (m : Mem) (s : State) :
    (advanceMsg d P x m s).freeCount = s.freeCount := rfl

end Sys2Proof.Machine
end

