-- ==== Sys2Proof/Laws/Units.lean ====
section
/-! SUPPORT. The units: lengths of what a profile and a primitive compute, the padding inserter and its classifier, the
comparator's accumulator, the ROM lookups, TOY's law ENC-DEC, and law PRIM-INV of the free block permutation. -/

namespace Sys2Proof.Machine

/-! Lengths. -/

@[simp] theorem famInit_length (P : Profile) (K N : Bytes) : (famInit P K N).length = P.stateBytes := by
  simp [famInit]

@[simp] theorem famAbsorb_length (P : Profile) (S B : Bytes) (n : Nat) (d : Byte) :
    (famAbsorb P S B n d).length = P.stateBytes := by
  simp [famAbsorb]

@[simp] theorem famEncBlock_fst_length (P : Profile) (S B : Bytes) (n : Nat) (d : Byte) :
    (famEncBlock P S B n d).1.length = P.stateBytes := by
  simp [famEncBlock]

@[simp] theorem famEncBlock_snd_length (P : Profile) (S B : Bytes) (n : Nat) (d : Byte) :
    (famEncBlock P S B n d).2.length = n := by
  simp [famEncBlock]

@[simp] theorem famDecBlock_fst_length (P : Profile) (S y : Bytes) (n : Nat) (d : Byte) :
    (famDecBlock P S y n d).1.length = P.stateBytes := by
  simp [famDecBlock]

@[simp] theorem famDecBlock_snd_length (P : Profile) (S y : Bytes) (n : Nat) (d : Byte) :
    (famDecBlock P S y n d).2.length = n := by
  simp [famDecBlock]

@[simp] theorem famFinalize_length (P : Profile) (S K N : Bytes) : (famFinalize P S K N).length = P.tagLen := by
  simp [famFinalize]

@[simp] theorem computedTag_length (P : Profile) (s : State) : (computedTag P s).length = P.tagLen :=
  famFinalize_length P _ _ _

@[simp] theorem primOutput_length (o : PrimOp) (D : PrimDesc) (k b : Bytes) (s : State) :
    (primOutput o D k b s).length = D.blockBytes := by
  cases o <;> simp [primOutput, primEncBlock, primDecBlock, primPermBlock]

@[simp] theorem msgOutput_fst_length (d : Dir) (P : Profile) (x : Bytes) (s : State) :
    (msgOutput d P x s).1.length = P.stateBytes := by
  cases d <;> simp [msgOutput]

@[simp] theorem msgOutput_snd_length (d : Dir) (P : Profile) (x : Bytes) (s : State) :
    (msgOutput d P x s).2.length = (msgBlock P s).1 := by
  cases d <;> simp [msgOutput]

/-! The free block permutation (log entry 8). -/

@[simp] theorem cipherEnc_length (D : PrimDesc) (k : Bytes) (r start : Nat) (b : Bytes) :
    (cipherEnc D k r start b).length = D.blockBytes := List.length_ofFn

@[simp] theorem cipherDec_length (D : PrimDesc) (k : Bytes) (r start : Nat) (b : Bytes) :
    (cipherDec D k r start b).length = D.blockBytes := List.length_ofFn

/-- The bytes of a string made from its bytes. -/
@[simp] theorem byteAt_ofFn {n : Nat} (f : Fin n → Byte) (i : Fin n) : byteAt (List.ofFn f) i = f i := by
  simp [byteAt]

theorem ofFn_byteAt {n : Nat} {b : Bytes} (h : b.length = n) : List.ofFn (fun i : Fin n => byteAt b i) = b := by
  subst h
  simp [byteAt]

/-- `dec` undoes `enc` (R142). -/
theorem cipherDec_cipherEnc (D : PrimDesc) (k : Bytes) (r start : Nat) {b : Bytes} (h : b.length = D.blockBytes) :
    cipherDec D k r start (cipherEnc D k r start b) = b := by
  simp [cipherDec, cipherEnc, ofFn_byteAt h]

/-- Law PRIM-INV where the functions are free (R142). -/
theorem primDecBlock_primEncBlock_of_free {D : PrimDesc} {k b : Bytes} {r start : Nat}
    (hs : skinnyFull D r start = false) (hi : invertible D r start = true) (hb : b.length = D.blockBytes) :
    primDecBlock D k r start (primEncBlock D k r start b) = b := by
  have henc : primEncBlock D k r start b = cipherEnc D k r start b := by
    simp [primEncBlock, hs, hi, fit_of_length]
  rw [henc]
  simp [primDecBlock, hs, hi, cipherDec_cipherEnc _ _ _ _ hb, fit_of_length hb]

/-- A padded block has the unit's length (R172). -/
theorem pad_length {x : Bytes} {u : Nat} (mode : PadMode) (h : x.length ≤ u) : (pad x u mode).length = u := by
  unfold pad
  by_cases hx : x.length = u
  · simp [hx]
  · rw [if_neg hx]
    cases mode <;> simp <;> omega

/-! The classifier. -/

/-- What one call of the classifier answers (R174), for an offset from which it may be called. -/
theorem classify_cases (total off u : Nat) (ph : PadPhase) :
    (total = 0 ∧ classify total off u ph = (0, emptyClass ph)) ∨
    (total ≠ 0 ∧ u < total - off ∧ classify total off u ph = (u, nonfinalClass ph)) ∨
    (total ≠ 0 ∧ total - off = u ∧ classify total off u ph = (u, finalFullClass ph)) ∨
    (total ≠ 0 ∧ total - off < u ∧ classify total off u ph = (total - off, finalPartialClass ph)) := by
  unfold classify
  by_cases h0 : total = 0
  · exact .inl ⟨h0, by rw [if_pos h0]⟩
  · rw [if_neg h0]
    by_cases h1 : u < total - off
    · exact .inr (.inl ⟨h0, h1, by rw [if_pos h1]⟩)
    · rw [if_neg h1]
      by_cases h2 : total - off = u
      · exact .inr (.inr (.inl ⟨h0, h2, by rw [if_pos h2]⟩))
      · exact .inr (.inr (.inr ⟨h0, by omega, by rw [if_neg h2]⟩))

/-- A step never consumes more than its unit (R174). -/
theorem classify_le_unit (total off u : Nat) (ph : PadPhase) : (classify total off u ph).1 ≤ u := by
  rcases classify_cases total off u ph with ⟨_, h⟩ | ⟨_, _, h⟩ | ⟨_, _, h⟩ | ⟨_, _, h⟩ <;>
    (have e := congrArg Prod.fst h; dsimp only at e; omega)

/-- A step never consumes more than what is left (R70, R174). -/
theorem classify_le_rest (total off u : Nat) (ph : PadPhase) : (classify total off u ph).1 ≤ total - off := by
  rcases classify_cases total off u ph with ⟨_, h⟩ | ⟨_, _, h⟩ | ⟨_, _, h⟩ | ⟨_, _, h⟩ <;>
    (have e := congrArg Prod.fst h; dsimp only at e; omega)

/-! The ROMs. -/

theorem lookupProfile_mem {p : Params} {f : Byte} {P : Profile} (h : lookupProfile p f = some P) :
    P ∈ p.families ∧ P.id = f := by
  refine ⟨List.mem_of_find?_eq_some h, ?_⟩
  simpa using List.find?_some h

theorem lookupPrim_mem {p : Params} {id : Byte} {D : PrimDesc} (h : lookupPrim p id = some D) :
    D ∈ p.prims ∧ D.id = id := by
  refine ⟨List.mem_of_find?_eq_some h, ?_⟩
  simpa using List.find?_some h

theorem profile_wf_of_params {p : Params} (hp : p.wf = true) {P : Profile} (h : P ∈ p.families) :
    P.wf p.sMax = true := by
  simp only [Params.wf, Bool.and_eq_true, List.all_eq_true] at hp
  exact hp.1.1.1.2 P h

theorem prim_wf_of_params {p : Params} (hp : p.wf = true) {D : PrimDesc} (h : D ∈ p.prims) : D.wf = true := by
  simp only [Params.wf, Bool.and_eq_true, List.all_eq_true] at hp
  exact hp.1.1.2 D h

/-- The ranges of a well-formed profile that the sequencer relies on (R201, R202). -/
theorem Profile.wf_ranges {sMax : Nat} {P : Profile} (h : P.wf sMax = true) :
    1 ≤ P.unitAd ∧ P.unitAd ≤ 128 ∧ 1 ≤ P.unitMsg ∧ P.unitMsg ≤ 128 ∧ 1 ≤ P.stateBytes ∧ P.stateBytes ≤ sMax ∧
    1 ≤ P.keyLen ∧ P.keyLen ≤ 32 ∧ 1 ≤ P.nonceLen ∧ P.nonceLen ≤ 32 ∧ 1 ≤ P.tagLen ∧ P.tagLen ≤ 32 := by
  simp only [Profile.wf, Bool.and_eq_true, decide_eq_true_eq] at h
  obtain ⟨⟨⟨⟨-, hu⟩, hs⟩, -⟩, hid⟩ := h
  have hl : 1 ≤ P.keyLen ∧ P.keyLen ≤ 32 ∧ 1 ≤ P.nonceLen ∧ P.nonceLen ≤ 32 ∧ 1 ≤ P.tagLen ∧ P.tagLen ≤ 32 := by
    by_cases h0 : P.id = Config.toyId
    · rw [if_pos h0, decide_eq_true_eq] at hid
      subst hid
      decide
    · rw [if_neg h0] at hid
      simp only [Profile.sourceSizes, Bool.and_eq_true, decide_eq_true_eq] at hid
      obtain ⟨⟨h1, h2, h3, h4, h5, h6⟩, -⟩ := hid
      omega
  exact ⟨hu.1, hu.2.1, hu.2.2.1, hu.2.2.2, hs.1, hs.2, hl.1, hl.2.1, hl.2.2.1, hl.2.2.2.1, hl.2.2.2.2.1, hl.2.2.2.2.2⟩

/-- The ranges of a well-formed descriptor that the wrapper relies on (R140). -/
theorem PrimDesc.wf_ranges {D : PrimDesc} (h : D.wf = true) :
    1 ≤ D.blockBytes ∧ D.blockBytes ≤ 64 ∧ D.keyBytes ≤ 32 ∧ 1 ≤ D.maxRounds ∧ D.maxRounds ≤ 255 ∧
    1 ≤ D.defaultRounds ∧ D.defaultRounds ≤ D.maxRounds := by
  simp only [PrimDesc.wf, Bool.and_eq_true, decide_eq_true_eq] at h
  exact ⟨h.1.1.1.1.2.1, h.1.1.1.1.2.2.1, h.1.1.1.1.2.2.2, h.1.1.1.2.1, h.1.1.1.2.2.1, h.1.1.1.2.2.2.1,
    h.1.1.1.2.2.2.2⟩

/-! TOY (R203). -/

theorem toyF_length (s : Bytes) : (toyF s).length = 8 := rfl

/-- TOY satisfies law ENC-DEC (R203): `decBlock` rebuilds the block `encBlock` was given. -/
theorem toy_encDec : EncDecLaw Config.toyProfile := by
  intro S x d hS hx
  have hS8 : S.length = 8 := hS
  have hx4 : x.length ≤ 4 := hx
  have hpad : (pad x 4 .marker80).take x.length = x := by
    unfold pad
    by_cases h : x.length = 4
    · rw [if_pos h, List.take_length]
    · rw [if_neg h]
      simp
  have hy : fit x.length (xorBytes (S.take x.length) x) = xorBytes (S.take x.length) x := by
    refine fit_of_length ?_
    simp
    omega
  have hxx : xorBytes (S.take x.length) (xorBytes (S.take x.length) x) = x :=
    xorBytes_cancel _ _ (by simp; omega)
  show (fit 8 (toyMix S (pad (xorBytes (S.take x.length) (fit x.length (xorBytes (S.take x.length)
      ((pad x 4 .marker80).take x.length)))) 4 .marker80) d),
    fit x.length (xorBytes (S.take x.length) (fit x.length (xorBytes (S.take x.length)
      ((pad x 4 .marker80).take x.length))))) = (fit 8 (toyMix S (pad x 4 .marker80) d), x)
  rw [hpad, hy, hxx, fit_of_length rfl]

end Sys2Proof.Machine
end

