-- ==== Sys2Proof/Laws/Steps.lean ====
section
/-! SUPPORT. What each shared step of the sequencer can do, said once: the parameter checks by their conditions, and for
every step the one form its next state has. -/

namespace Sys2Proof.Machine

/-! The parameter checks. -/

/-- ENCRYPT and DECRYPT pass their checks exactly under these conditions (R207). -/
theorem aeadCheck_eq_ok {d : Dir} {s : State} {P : Profile} :
    aeadCheck d s = .ok P ↔
      profileOf s = some P ∧ s.keyLen.toNat = P.keyLen ∧ s.nonceLen.toNat = P.nonceLen ∧
      (d = .dec → P.tagLen ≤ s.inLen.toNat) ∧ exceeds s.adLen.toNat P.maxAd = false ∧
      exceeds (messageLen d P s) P.maxMsg = false ∧
      (∀ r ∈ aeadRegions d P s, regionOutside s r.1 r.2 = false) ∧ payloadsOverlap s (messageLen d P s) = false := by
  unfold aeadCheck
  cases hP : profileOf s with
  | none => simp
  | some Q =>
    dsimp only
    constructor
    · intro h
      split at h
      · cases h
      · rename_i h1
        split at h
        · cases h
        · rename_i h2
          split at h
          · cases h
          · rename_i h3
            split at h
            · cases h
            · rename_i h4
              split at h
              · cases h
              · rename_i h5
                split at h
                · cases h
                · rename_i h6
                  split at h
                  · cases h
                  · rename_i h7
                    cases h
                    refine ⟨rfl, not_not.mp h1, not_not.mp h2, ?_, by simpa using h4, by simpa using h5, ?_,
                      by simpa using h7⟩
                    · intro hd
                      exact not_lt.mp (fun hlt => h3 ⟨hd, hlt⟩)
                    · intro r hr
                      have := h6
                      simp only [List.any_eq_true, not_exists, not_and, Bool.not_eq_true] at this
                      exact this r hr
    · rintro ⟨hQ, h1, h2, h3, h4, h5, h6, h7⟩
      cases hQ
      have h3' : ¬ (d = .dec ∧ s.inLen.toNat < P.tagLen) := fun h => not_lt.mpr (h3 h.1) h.2
      have h6' : ¬ (aeadRegions d P s).any (fun r => regionOutside s r.1 r.2) = true := by
        simp only [List.any_eq_true, not_exists, not_and, Bool.not_eq_true]
        exact h6
      rw [if_neg (not_not.mpr h1), if_neg (not_not.mpr h2), if_neg h3', if_neg (by simp [h4]), if_neg (by simp [h5]),
        if_neg h6', if_neg (by simp [h7])]

/-- The legal round pairs as inequalities (R144). -/
theorem legalRounds_eq_true {D : PrimDesc} {r start : Nat} :
    legalRounds D r start = true ↔ 1 ≤ r ∧ start + r ≤ D.maxRounds := by
  simp [legalRounds]

/-- A raw primitive command passes its checks exactly under these conditions (R150). -/
theorem primCheck_eq_ok {o : PrimOp} {s : State} {D : PrimDesc} :
    primCheck o s = .ok D ↔
      primOf s = some D ∧ primFits o D = true ∧ 1 ≤ roundCount D s ∧
      s.start.toNat + roundCount D s ≤ D.maxRounds ∧ (o ≠ .perm → s.keyLen.toNat = D.keyBytes) ∧
      s.inLen.toNat = D.blockBytes ∧ (o ≠ .perm → regionOutside s s.keyPtr D.keyBytes = false) ∧
      s.inPtr.toNat + D.blockBytes ≤ s.params.bufSize ∧ s.outPtr.toNat + D.blockBytes ≤ s.params.bufSize := by
  unfold primCheck
  cases hD : primOf s with
  | none => simp
  | some E =>
    dsimp only
    constructor
    · intro h
      split at h
      · cases h
      · rename_i h1
        split at h
        · cases h
        · rename_i h2
          split at h
          · cases h
          · rename_i h3
            split at h
            · cases h
            · rename_i h4
              split at h
              · cases h
              · rename_i h5
                split at h
                · cases h
                · rename_i h6
                  split at h
                  · cases h
                  · rename_i h7
                    cases h
                    have hr := legalRounds_eq_true.mp (by simpa using h2)
                    refine ⟨rfl, by simpa using h1, hr.1, hr.2, ?_, by omega, ?_, by omega, by omega⟩
                    · intro ho
                      exact not_not.mp (fun hne => h3 ⟨ho, hne⟩)
                    · intro ho
                      simpa using fun hr => h5 ⟨ho, hr⟩
    · rintro ⟨hE, h1, h2, h2', h3, h4, h5, h6, h7⟩
      cases hE
      have h3' : ¬ (o ≠ .perm ∧ s.keyLen.toNat ≠ D.keyBytes) := fun h => h.2 (h3 h.1)
      have h5' : ¬ (o ≠ .perm ∧ regionOutside s s.keyPtr D.keyBytes = true) := fun h => by
        rw [h5 h.1] at h
        exact absurd h.2 (by decide)
      rw [if_neg (by simp [h1]), if_neg (by simp [legalRounds_eq_true.mpr ⟨h2, h2'⟩]), if_neg h3', if_neg (by omega), if_neg h5', if_neg (by omega),
        if_neg (by omega)]

/-- A region that passes the bounds check may be read and written (R14, R91). -/
theorem inBuf_of_region {s : State} {p : Word} {n : Nat} (h : regionOutside s p n = false) : inBuf s p.toNat n := by
  simp only [regionOutside, decide_eq_false_iff_not, not_and, not_lt] at h
  unfold inBuf
  by_cases h0 : n = 0
  · exact .inl h0
  · exact .inr (h (by omega))

/-! ENCRYPT and DECRYPT. -/

theorem aeadCheckStep_error {d : Dir} {s : State} {e : Detail} (h : aeadCheck d s = .error e) :
    aeadCheckStep d s = .next (raiseInvalidParameters e s) := by
  simp [aeadCheckStep, h]

/-- A CHECK step of ENCRYPT or DECRYPT fails its check, or latches the operands (R208). -/
theorem aeadCheckStep_next {d : Dir} {s t : State} (h : aeadCheckStep d s = .next t) :
    (∃ e, aeadCheck d s = .error e ∧ t = raiseInvalidParameters e s) ∨
    (∃ P, aeadCheck d s = .ok P ∧
      t = latchOperands d P (s.buf.readBytes s.keyPtr.toNat P.keyLen) (s.buf.readBytes s.noncePtr.toNat P.nonceLen)
        (s.buf.readBytes (suppliedTagPtr P s) P.tagLen) s) := by
  unfold aeadCheckStep at h
  cases hc : aeadCheck d s with
  | error e =>
    rw [hc] at h
    exact .inl ⟨e, rfl, (by simpa using h.symm)⟩
  | ok P =>
    rw [hc] at h
    refine .inr ⟨P, rfl, ?_⟩
    dsimp only at h
    cases d with
    | enc =>
      split at h
      · rename_i k n t' hk hn ht
        obtain ⟨-, rfl⟩ := memRead_eq_some.mp hk
        obtain ⟨-, rfl⟩ := memRead_eq_some.mp hn
        cases h
        rfl
      · cases h
    | dec =>
      split at h
      · rename_i k n t' hk hn ht
        obtain ⟨-, rfl⟩ := memRead_eq_some.mp hk
        obtain ⟨-, rfl⟩ := memRead_eq_some.mp hn
        obtain ⟨-, rfl⟩ := memRead_eq_some.mp ht
        cases h
        rfl
      · cases h

/-- A CHECK step whose check passes completes (R208). -/
theorem aeadCheckStep_ok {d : Dir} {s : State} {P : Profile} (h : aeadCheck d s = .ok P) :
    aeadCheckStep d s = .next (latchOperands d P (s.buf.readBytes s.keyPtr.toNat P.keyLen)
      (s.buf.readBytes s.noncePtr.toNat P.nonceLen) (s.buf.readBytes (suppliedTagPtr P s) P.tagLen) s) := by
  obtain ⟨-, -, -, hs, -, -, hr, -⟩ := aeadCheck_eq_ok.mp h
  have hk : memRead s s.keyPtr.toNat P.keyLen = some (s.buf.readBytes s.keyPtr.toNat P.keyLen) :=
    memRead_eq_some.mpr ⟨inBuf_of_region (hr (s.keyPtr, P.keyLen) (by simp [aeadRegions])), rfl⟩
  have hn : memRead s s.noncePtr.toNat P.nonceLen = some (s.buf.readBytes s.noncePtr.toNat P.nonceLen) :=
    memRead_eq_some.mpr ⟨inBuf_of_region (hr (s.noncePtr, P.nonceLen) (by simp [aeadRegions])), rfl⟩
  cases d with
  | enc =>
    simp only [aeadCheckStep, h, hk, hn]
    rfl
  | dec =>
    have hi : s.inLen.toNat = 0 ∨ s.inPtr.toNat + s.inLen.toNat ≤ s.params.bufSize :=
      inBuf_of_region (hr (s.inPtr, s.inLen.toNat) (by simp [aeadRegions]))
    have ht : memRead s (suppliedTagPtr P s) P.tagLen = some (s.buf.readBytes (suppliedTagPtr P s) P.tagLen) := by
      refine memRead_eq_some.mpr ⟨?_, rfl⟩
      have := hs rfl
      show P.tagLen = 0 ∨ s.inPtr.toNat + (s.inLen.toNat - P.tagLen) + P.tagLen ≤ s.params.bufSize
      omega
    simp only [aeadCheckStep, h, hk, hn, ht]

theorem initStep_eq {s : State} {P : Profile} (h : profileOf s = some P) :
    initStep s = .next { s with
      st := fit s.params.sMax (famInit P (s.kl.take P.keyLen) (s.nl.take P.nonceLen))
      phase := .ad } := by
  simp [initStep, h]

theorem adStep_eq {s : State} {P : Profile} (h : profileOf s = some P)
    (hb : inBuf s (s.adPtr.toNat + s.adOff.toNat) (adBlock P s).1) :
    adStep s = .next (absorbAd P (s.buf.readBytes (s.adPtr.toNat + s.adOff.toNat) (adBlock P s).1) s) := by
  simp [adStep, h, memRead_eq_some.mpr ⟨hb, rfl⟩]

/-- An AD step absorbs the classifier's block (R212). -/
theorem adStep_next {s t : State} (h : adStep s = .next t) :
    ∃ P, profileOf s = some P ∧ inBuf s (s.adPtr.toNat + s.adOff.toNat) (adBlock P s).1 ∧
      t = absorbAd P (s.buf.readBytes (s.adPtr.toNat + s.adOff.toNat) (adBlock P s).1) s := by
  unfold adStep at h
  split at h
  · cases h
  · rename_i P hP
    split at h
    · cases h
    · rename_i x hx
      obtain ⟨hb, rfl⟩ := memRead_eq_some.mp hx
      exact ⟨P, hP, hb, by simpa using h.symm⟩

theorem msgStep_eq {d : Dir} {s : State} {P : Profile} (h : profileOf s = some P)
    (hi : inBuf s (s.inPtr.toNat + s.mOff.toNat) (msgBlock P s).1)
    (ho : inBuf s (s.outPtr.toNat + s.mOff.toNat) (msgBlock P s).1) :
    msgStep d s = .next (advanceMsg d P (s.buf.readBytes (s.inPtr.toNat + s.mOff.toNat) (msgBlock P s).1)
      (s.buf.writeBytes (s.outPtr.toNat + s.mOff.toNat)
        (msgOutput d P (s.buf.readBytes (s.inPtr.toNat + s.mOff.toNat) (msgBlock P s).1) s).2) s) := by
  simp only [msgStep, h, memRead_eq_some.mpr ⟨hi, rfl⟩]
  rw [memWrite_eq_some.mpr ⟨by simpa using ho, rfl⟩]

/-- A MSG step reads the classifier's block and writes as many bytes (R214, R215). -/
theorem msgStep_next {d : Dir} {s t : State} (h : msgStep d s = .next t) :
    ∃ P, profileOf s = some P ∧ inBuf s (s.inPtr.toNat + s.mOff.toNat) (msgBlock P s).1 ∧
      inBuf s (s.outPtr.toNat + s.mOff.toNat) (msgBlock P s).1 ∧
      t = advanceMsg d P (s.buf.readBytes (s.inPtr.toNat + s.mOff.toNat) (msgBlock P s).1)
        (s.buf.writeBytes (s.outPtr.toNat + s.mOff.toNat)
          (msgOutput d P (s.buf.readBytes (s.inPtr.toNat + s.mOff.toNat) (msgBlock P s).1) s).2) s := by
  unfold msgStep at h
  split at h
  · cases h
  · rename_i P hP
    split at h
    · cases h
    · rename_i x hx
      obtain ⟨hb, rfl⟩ := memRead_eq_some.mp hx
      split at h
      · cases h
      · rename_i m hm
        obtain ⟨ho, rfl⟩ := memWrite_eq_some.mp hm
        exact ⟨P, hP, hb, by simpa using ho, by simpa using h.symm⟩

theorem finalStep_dec_eq {s : State} {P : Profile} (h : profileOf s = some P) :
    finalStep .dec s = .next { s with
      tc := fit Config.latchBytes (computedTag P s)
      phase := .verify } := by
  simp [finalStep, h]

theorem finalStep_enc_eq {s : State} {P : Profile} (h : profileOf s = some P)
    (hb : inBuf s (s.outPtr.toNat + s.mLen.toNat) P.tagLen) :
    finalStep .enc s = .next { s with
      tc := fit Config.latchBytes (computedTag P s)
      buf := s.buf.writeBytes (s.outPtr.toNat + s.mLen.toNat) (computedTag P s)
      outLen := BitVec.ofNat 32 (s.mLen.toNat + P.tagLen)
      result := .ok
      detail := .none
      phase := .wipe } := by
  simp only [finalStep, h]
  rw [memWrite_eq_some.mpr ⟨by simpa using hb, rfl⟩]

/-- A FINAL step of DECRYPT leaves the tag in TC; one of ENCRYPT also writes it to BUF (R220). -/
theorem finalStep_next {d : Dir} {s t : State} (h : finalStep d s = .next t) :
    ∃ P, profileOf s = some P ∧
      ((d = .dec ∧ t = { s with
          tc := fit Config.latchBytes (computedTag P s)
          phase := .verify }) ∨
       (d = .enc ∧ inBuf s (s.outPtr.toNat + s.mLen.toNat) P.tagLen ∧ t = { s with
          tc := fit Config.latchBytes (computedTag P s)
          buf := s.buf.writeBytes (s.outPtr.toNat + s.mLen.toNat) (computedTag P s)
          outLen := BitVec.ofNat 32 (s.mLen.toNat + P.tagLen)
          result := .ok
          detail := .none
          phase := .wipe })) := by
  unfold finalStep at h
  split at h
  · cases h
  · rename_i P hP
    refine ⟨P, hP, ?_⟩
    cases d with
    | dec => exact .inl ⟨rfl, by simpa using h.symm⟩
    | enc =>
      dsimp only at h
      split at h
      · cases h
      · rename_i m hm
        obtain ⟨hb, rfl⟩ := memWrite_eq_some.mp hm
        exact .inr ⟨rfl, by simpa using hb, by simpa using h.symm⟩

theorem verifyStep_eq {s : State} {P : Profile} (h : profileOf s = some P) :
    verifyStep s = .next { s with
      mask := ctMask s.tc s.ts P.tagLen
      phase := .scrub } := by
  simp [verifyStep, h]

theorem verifyStep_next {s t : State} (h : verifyStep s = .next t) :
    ∃ P, profileOf s = some P ∧ t = { s with
      mask := ctMask s.tc s.ts P.tagLen
      phase := .scrub } := by
  unfold verifyStep at h
  split at h
  · cases h
  · rename_i P hP
    exact ⟨P, hP, by simpa using h.symm⟩

/-- The state a SCRUB step leaves (R254). -/
theorem scrubStep_eq {s : State} (hb : inBuf s s.outPtr.toNat s.mLen.toNat) :
    scrubStep s = .next { s with
      buf := s.buf.writeBytes s.outPtr.toNat
        ((s.buf.readBytes s.outPtr.toNat s.mLen.toNat).map (fun b => b &&& s.mask))
      outLen := s.mLen
      result := scrubResult (s.mask.getLsbD 0)
      detail := scrubDetail (s.mask.getLsbD 0)
      phase := .wipe } := by
  simp only [scrubStep, memRead_eq_some.mpr ⟨hb, rfl⟩]
  rw [memWrite_eq_some.mpr ⟨by simpa using hb, rfl⟩]

theorem scrubStep_next {s t : State} (h : scrubStep s = .next t) :
    inBuf s s.outPtr.toNat s.mLen.toNat ∧ t = { s with
      buf := s.buf.writeBytes s.outPtr.toNat
        ((s.buf.readBytes s.outPtr.toNat s.mLen.toNat).map (fun b => b &&& s.mask))
      outLen := s.mLen
      result := scrubResult (s.mask.getLsbD 0)
      detail := scrubDetail (s.mask.getLsbD 0)
      phase := .wipe } := by
  by_cases hb : inBuf s s.outPtr.toNat s.mLen.toNat
  · rw [scrubStep_eq hb] at h
    exact ⟨hb, by simpa using h.symm⟩
  · rw [scrubStep, memRead_eq_none.mpr hb] at h
    cases h

/-! The raw primitive commands. -/

theorem primCheckStep_next {o : PrimOp} {s t : State} (h : primCheckStep o s = .next t) :
    (∃ e, primCheck o s = .error e ∧ t = raiseInvalidParameters e s) ∨
    (∃ D, primCheck o s = .ok D ∧ t = { s with phase := .prim }) := by
  unfold primCheckStep at h
  split at h
  · rename_i e he
    exact .inl ⟨e, he, by simpa using h.symm⟩
  · rename_i D hD
    exact .inr ⟨D, hD, by simpa using h.symm⟩

theorem primStep_eq {o : PrimOp} {s : State} {D : PrimDesc} (h : primOf s = some D)
    (hi : inBuf s s.inPtr.toNat D.blockBytes) (hk : inBuf s s.keyPtr.toNat (primKeyBytes o D))
    (ho : inBuf s s.outPtr.toNat D.blockBytes) :
    primStep o s = .next { s with
      buf := s.buf.writeBytes s.outPtr.toNat (primOutput o D (s.buf.readBytes s.keyPtr.toNat (primKeyBytes o D))
        (s.buf.readBytes s.inPtr.toNat D.blockBytes) s)
      outLen := BitVec.ofNat 32 D.blockBytes
      result := .ok
      detail := .none
      phase := .wipe } := by
  simp only [primStep, h, memRead_eq_some.mpr ⟨hi, rfl⟩, memRead_eq_some.mpr ⟨hk, rfl⟩]
  rw [memWrite_eq_some.mpr ⟨by simpa using ho, rfl⟩]

/-- A PRIM step writes the primitive's output block (R152). -/
theorem primStep_next {o : PrimOp} {s t : State} (h : primStep o s = .next t) :
    ∃ D, primOf s = some D ∧ inBuf s s.inPtr.toNat D.blockBytes ∧ inBuf s s.keyPtr.toNat (primKeyBytes o D) ∧
      inBuf s s.outPtr.toNat D.blockBytes ∧ t = { s with
        buf := s.buf.writeBytes s.outPtr.toNat (primOutput o D (s.buf.readBytes s.keyPtr.toNat (primKeyBytes o D))
          (s.buf.readBytes s.inPtr.toNat D.blockBytes) s)
        outLen := BitVec.ofNat 32 D.blockBytes
        result := .ok
        detail := .none
        phase := .wipe } := by
  unfold primStep at h
  split at h
  · cases h
  · rename_i D hD
    split at h
    · rename_i b k hb hk
      obtain ⟨h1, rfl⟩ := memRead_eq_some.mp hb
      obtain ⟨h2, rfl⟩ := memRead_eq_some.mp hk
      split at h
      · cases h
      · rename_i m hm
        obtain ⟨h3, rfl⟩ := memWrite_eq_some.mp hm
        exact ⟨D, hD, h1, h2, by simpa using h3, by simpa using h.symm⟩
    · cases h

/-! Commands. -/

theorem runCommand_idle {op : BitVec 4} {f : State → Out} {s : State} (h : s.busy = false) :
    runCommand op f s = .next (acceptCommand op s) := by
  simp [runCommand, h]

theorem runCommand_busy {op : BitVec 4} {f : State → Out} {s : State} (h : s.busy = true) (ho : s.op = op) :
    runCommand op f s = f s := by
  simp [runCommand, h, ho]

end Sys2Proof.Machine
end

