-- ==== Sys2Proof/Laws/Bus.lean ====
section
/-! SUPPORT. What a host transaction can do, said once, and what a step of the machine runs. -/

namespace Sys2Proof.Machine

/-- `u` is `s` but for operand registers (R54). -/
def OnlyOperands (s u : State) : Prop :=
  u = { s with
    family := u.family
    keyLen := u.keyLen
    nonceLen := u.nonceLen
    keyPtr := u.keyPtr
    noncePtr := u.noncePtr
    adPtr := u.adPtr
    adLen := u.adLen
    inPtr := u.inPtr
    inLen := u.inLen
    outPtr := u.outPtr
    psel := u.psel
    rounds := u.rounds
    start := u.start }

/-- What a host transaction leaves, but for its response (R85 to R90, R351). -/
def HostEffect (s u : State) : Prop :=
  u = s ∨ (s.busy = true ∧ u = dropTransaction s) ∨ (∃ v, u = writeCtrl v s) ∨ (∃ v, u = writeStatus v s) ∨
  (s.busy = false ∧ OnlyOperands s u) ∨
  (s.busy = false ∧ ∃ a bs, a + bs.length ≤ s.params.bufSize ∧ u = { s with buf := s.buf.writeBytes a bs })

theorem writeOperand_done {s u t : State} (hu : OnlyOperands s u) (h : writeOperand s u = .done t) :
    HostEffect s t := by
  unfold writeOperand at h
  cases h
  cases hb : s.busy
  · simp only [Bool.false_eq_true, if_false]
    exact .inr (.inr (.inr (.inr (.inl ⟨hb, hu⟩))))
  · simp only [if_true]
    exact .inr (.inl ⟨hb, rfl⟩)

theorem writeReg_done {s t : State} {r : HostReg} {v : Word} (h : writeReg s r v = .done t) : HostEffect s t := by
  cases r <;> simp only [writeReg] at h
  case ctrl => cases h; exact .inr (.inr (.inl ⟨v, rfl⟩))
  case status => cases h; exact .inr (.inr (.inr (.inl ⟨v, rfl⟩)))
  case cmd =>
    cases hb : s.busy
    · simp [hb] at h
    · simp only [hb, if_true, BusOutcome.done.injEq] at h
      exact .inr (.inl ⟨hb, h.symm⟩)
  case family => exact writeOperand_done (by exact rfl) h
  case keyLen => exact writeOperand_done (by exact rfl) h
  case nonceLen => exact writeOperand_done (by exact rfl) h
  case keyPtr => exact writeOperand_done (by exact rfl) h
  case noncePtr => exact writeOperand_done (by exact rfl) h
  case adPtr => exact writeOperand_done (by exact rfl) h
  case adLen => exact writeOperand_done (by exact rfl) h
  case inPtr => exact writeOperand_done (by exact rfl) h
  case inLen => exact writeOperand_done (by exact rfl) h
  case outPtr => exact writeOperand_done (by exact rfl) h
  case primCfg => exact writeOperand_done (by exact rfl) h
  all_goals (cases h; exact .inl rfl)

theorem writeReg_command {s t : State} {r : HostReg} {v w : Word} (h : writeReg s r v = .command w t) :
    r = .cmd ∧ s.busy = false ∧ w = v ∧ t = s := by
  cases r <;> simp only [writeReg, writeOperand] at h
  case cmd =>
    cases hb : s.busy
    · simp only [hb, Bool.false_eq_true, if_false, BusOutcome.command.injEq] at h
      exact ⟨rfl, rfl, h.1.symm, h.2.symm⟩
    · simp [hb] at h
  all_goals cases h

theorem writeOffset_done {s t : State} {off width : Nat} {v : Word} (hl : legalAccess s off width = true)
    (h : writeOffset s off width v = .done t) : HostEffect s t := by
  unfold writeOffset at h
  unfold legalAccess at hl
  cases hr : regionOf s off with
  | registers =>
    rw [hr] at h
    dsimp only at h
    split at h
    · exact writeReg_done h
    · cases h
      exact .inl rfl
  | unmapped =>
    rw [hr] at h
    cases h
    exact .inl rfl
  | window =>
    rw [hr] at h hl
    simp only [Bool.and_eq_true, decide_eq_true_eq] at hl
    dsimp only at h
    by_cases hb : s.busy = true
    · rw [if_pos hb] at h
      cases h
      exact .inr (.inl ⟨hb, rfl⟩)
    · rw [if_neg hb] at h
      have hw : windowBase ≤ off := by
        unfold regionOf at hr
        split at hr
        · cases hr
        · split at hr
          · rename_i h2
            exact h2.1
          · cases hr
      cases h
      exact .inr (.inr (.inr (.inr (.inr ⟨by simpa using hb, off - windowBase, _,
        by rw [storeLE_length]; omega, rfl⟩))))

/-- A host transaction that no command follows: the response is recorded, and the rest is one of `HostEffect`. -/
theorem busAccess_done {s t : State} {x : Txn} (h : busAccess s x = .done t) :
    ∃ u r, HostEffect s u ∧ t = respond r u := by
  unfold busAccess at h
  split at h
  · cases h
    exact ⟨s, .none, .inl rfl, rfl⟩
  · unfold accessOffset at h
    split at h
    · rename_i hl
      split at h
      · cases h
        refine ⟨_, _, ?_, rfl⟩
        unfold readOffset
        split
        · split <;> exact .inl rfl
        · exact .inl rfl
        · cases hb : s.busy
          · exact .inl rfl
          · exact .inr (.inl ⟨hb, rfl⟩)
      · rename_i v _
        cases hw : writeOffset s _ x.width v with
        | done u =>
          rw [hw] at h
          cases h
          exact ⟨u, .written, writeOffset_done hl hw, rfl⟩
        | command w u => rw [hw] at h; cases h
        | busErr => rw [hw] at h; cases h
    · cases h

/-- A command is run only from a CMD write that finds BUSY = 0 (R270, R271). -/
theorem busAccess_command {s t : State} {x : Txn} {w : Word} (h : busAccess s x = .command w t) :
    s.busy = false ∧ x.op = .write w ∧ t = respond .written s := by
  unfold busAccess at h
  split at h
  · cases h
  · rename_i off _
    unfold accessOffset at h
    split at h
    · split at h
      · cases h
      · rename_i v hv
        cases hw : writeOffset s off x.width v with
        | done u => rw [hw] at h; cases h
        | busErr => rw [hw] at h; cases h
        | command w' u =>
          rw [hw] at h
          simp only [respondOutcome, BusOutcome.command.injEq] at h
          obtain ⟨rfl, rfl⟩ := h
          unfold writeOffset at hw
          split at hw
          · split at hw
            · obtain ⟨-, hb, rfl, rfl⟩ := writeReg_command hw
              exact ⟨hb, hv, rfl⟩
            · cases hw
          · cases hw
          · split at hw <;> cases hw
    · cases h

/-! What a step of the machine runs. -/

/-- A command accepted while BUSY = 0, or NOP, which changes nothing (R270, R272). -/
theorem exec_idle {i : Instr} {s : State} (hi : i.wf = true) (hb : s.busy = false) :
    exec i s = if i = .nop then .next s else .next (acceptCommand (opLatch (encode i)) s) := by
  cases i with
  | reservedHigh h o =>
    have hne : h ≠ 0#28 := by simpa [Instr.wf] using hi
    have hx : opLatch (encode (.reservedHigh h o)) = 0xF#4 := by
      rw [opLatch_encode]
      exact if_neg hne
    rw [hx, if_neg (by simp)]
    exact runCommand_idle hb
  | nop => simp [exec, execNop, hb]
  | _ => exact runCommand_idle hb

/-- The steps of a command that runs, by its OP (R206). -/
def sequenceOf (op : BitVec 4) : State → Out :=
  match op.toNat with
  | 0 => resetTurn
  | 1 => encryptSequence
  | 2 => decryptSequence
  | 3 => primSequence .enc
  | 4 => primSequence .dec
  | 5 => primSequence .perm
  | 6 => zeroizeSequence
  | _ => reservedSequence

theorem sequencerTurn_idle {s : State} (hb : s.busy = false) : sequencerTurn s = .next s := by
  simp [sequencerTurn, hb]

/-- While BUSY = 1 the sequencer's step is the one OP and PHASE select (R206). -/
theorem sequencerTurn_busy {s : State} (hb : s.busy = true) : sequencerTurn s = sequenceOf s.op s := by
  have hop : ∀ o : BitVec 4, o = 0#4 ∨ o = 1#4 ∨ o = 2#4 ∨ o = 3#4 ∨ o = 4#4 ∨ o = 5#4 ∨ o = 6#4 ∨ o = 7#4 ∨
      o = 8#4 ∨ o = 9#4 ∨ o = 10#4 ∨ o = 11#4 ∨ o = 12#4 ∨ o = 13#4 ∨ o = 14#4 ∨ o = 15#4 := by decide
  simp only [sequencerTurn, hb, if_true]
  rcases hop s.op with h | h | h | h | h | h | h | h | h | h | h | h | h | h | h | h <;> rw [h] <;>
    first
    | rfl
    | exact runCommand_busy hb h

end Sys2Proof.Machine
end

