-- ==== Sys2Proof/Laws/PerInstr.lean ====
section
/-! SUPPORT. The family `Latch`, per constructor of Instr: what a command's word latches into OP (spec/44_commands.md R270),
and that OP = 0 stands for no command (spec/10_state.md R66). -/

namespace Sys2Proof.Laws.Latch

/-- The word of a well-formed command latches the command's OP, which is 0 for NOP only. -/
def Statement (i : Instr) : Prop := i.wf = true → opLatch (encode i) = i.latch ∧ (i ≠ .nop → i.latch ≠ 0#4)

theorem nop : Statement .nop := fun _ => ⟨opLatch_encode _, fun h => absurd rfl h⟩

theorem encrypt : Statement .encrypt := fun _ => ⟨opLatch_encode _, fun _ => by decide⟩

theorem decrypt : Statement .decrypt := fun _ => ⟨opLatch_encode _, fun _ => by decide⟩

theorem primEnc : Statement .primEnc := fun _ => ⟨opLatch_encode _, fun _ => by decide⟩

theorem primDec : Statement .primDec := fun _ => ⟨opLatch_encode _, fun _ => by decide⟩

theorem primPerm : Statement .primPerm := fun _ => ⟨opLatch_encode _, fun _ => by decide⟩

theorem zeroize : Statement .zeroize := fun _ => ⟨opLatch_encode _, fun _ => by decide⟩

theorem reservedHash : Statement .reservedHash := fun _ => ⟨opLatch_encode _, fun _ => by decide⟩

theorem reserved8 : Statement .reserved8 := fun _ => ⟨opLatch_encode _, fun _ => by decide⟩

theorem reserved9 : Statement .reserved9 := fun _ => ⟨opLatch_encode _, fun _ => by decide⟩

theorem reservedA : Statement .reservedA := fun _ => ⟨opLatch_encode _, fun _ => by decide⟩

theorem reservedB : Statement .reservedB := fun _ => ⟨opLatch_encode _, fun _ => by decide⟩

theorem reservedC : Statement .reservedC := fun _ => ⟨opLatch_encode _, fun _ => by decide⟩

theorem reservedD : Statement .reservedD := fun _ => ⟨opLatch_encode _, fun _ => by decide⟩

theorem reservedE : Statement .reservedE := fun _ => ⟨opLatch_encode _, fun _ => by decide⟩

theorem reservedF : Statement .reservedF := fun _ => ⟨opLatch_encode _, fun _ => by decide⟩

theorem reservedHigh (high : BitVec 28) (opcode : BitVec 4) : Statement (.reservedHigh high opcode) := by
  intro h
  have hne : high ≠ 0#28 := by simpa [Instr.wf] using h
  refine ⟨opLatch_encode _, fun _ => ?_⟩
  rw [Instr.latch, Instr.high, if_neg hne]
  decide

end Sys2Proof.Laws.Latch
end

