-- ==== Sys2Proof/Tests/Slice0.lean ====
section
/-! SUPPORT. The model's own tests: the checks of WellFormed refuse ill-formed terms, words written out from spec/30_encoding.md
R110 to R112 decode to their commands, one-step vectors of spec/95_test_vectors.md, and for every statement with hypotheses a
concrete state that meets them. Expected values are the spec's, never the model's. -/

namespace Sys2Proof.Tests
set_option Elab.async false
open Sys2Proof.Machine

/-! Fixtures: the layout of spec/44_commands.md R273's example. -/

/-- BUF of R273's example: key at 0x00, nonce at 0x04, AD at 0x08, plaintext at 0x10. -/
def toyBuf : Mem :=
  [(0x01, 0x01#8), (0x02, 0x02#8), (0x03, 0x03#8), (0x04, 0x10#8), (0x05, 0x11#8), (0x06, 0x12#8), (0x07, 0x13#8),
   (0x08, 0xa0#8), (0x09, 0xa1#8), (0x0A, 0xa2#8), (0x0B, 0xa3#8), (0x0C, 0xa4#8),
   (0x10, 0x50#8), (0x11, 0x51#8), (0x12, 0x52#8), (0x13, 0x53#8), (0x14, 0x54#8), (0x15, 0x55#8)]

/-- The ciphertext and tag of R273's example at 0x20, the last byte given. -/
def cipherBuf (last : Byte) : Mem :=
  toyBuf ++ [(0x20, 0x0a#8), (0x21, 0x8d#8), (0x22, 0xae#8), (0x23, 0x54#8), (0x24, 0x0a#8), (0x25, 0xee#8),
    (0x26, 0xb9#8), (0x27, 0x6f#8), (0x28, 0x88#8), (0x29, last)]

/-- R273's example, ready for the CMD write. -/
def ready : State :=
  { State.reset with
    busy := false
    phase := .idle
    buf := toyBuf
    family := 0x7F#8
    keyLen := 4#8
    nonceLen := 4#8
    keyPtr := 0x00#32
    noncePtr := 0x04#32
    adPtr := 0x08#32
    adLen := 5#32
    inPtr := 0x10#32
    inLen := 6#32
    outPtr := 0x20#32 }

/-- R274's example with OUT_PTR = 0x30, ready for the CMD write. -/
def decReady (last : Byte) : State :=
  { ready with
    buf := cipherBuf last
    inPtr := 0x20#32
    inLen := 10#32
    outPtr := 0x30#32 }

/-- R155's example, ready for the CMD write. -/
def permReady : State :=
  { ready with
    psel := 0x7F#8
    inPtr := 0x40#32
    inLen := 8#32
    outPtr := 0x48#32 }

/-- An instance that has SKINNY-128-128 too. -/
def skinnyParams : Params := { Config.defaultParams with prims := [Config.toyfDesc, Config.skinnyDesc] }

/-- A state ready for PRIM_ENC or PRIM_DEC with SKINNY-128-128, its key and its input at the end of BUF. -/
def skinnyReady : State :=
  { ready with
    params := skinnyParams
    psel := 0x01#8
    keyLen := 16#8
    keyPtr := 8176#32
    inPtr := 8160#32
    inLen := 16#32
    outPtr := 8176#32 }

/-- A state ready for PRIM_DEC whose input is the last vector of §1.1, a key of zeros at 0x80. -/
def skinnyBack : State :=
  { skinnyReady with
    keyPtr := 0x80#32
    inPtr := 0x40#32
    outPtr := 0x40#32
    buf := [(0x40, 0x4c#8), (0x41, 0xed#8), (0x42, 0x01#8), (0x43, 0xd2#8), (0x44, 0x0a#8), (0x45, 0x15#8),
      (0x46, 0x89#8), (0x47, 0x53#8), (0x48, 0xd0#8), (0x49, 0x96#8), (0x4A, 0x8f#8), (0x4B, 0x3a#8), (0x4C, 0x1c#8),
      (0x4D, 0xe1#8), (0x4E, 0x90#8), (0x4F, 0xbc#8)] }

/-- A state in which the sequencer's next step is a command's step in a phase. -/
def running (s : State) (i : Instr) (ph : Phase) : State :=
  { s with
    busy := true
    op := i.latch
    phase := ph }

/-- ENCRYPT of the example about to take its INIT step. -/
def encInit : State :=
  { running ready .encrypt .init with
    kl := [0x00#8, 0x01#8, 0x02#8, 0x03#8] ++ zeros 28
    nl := [0x10#8, 0x11#8, 0x12#8, 0x13#8] ++ zeros 28
    mLen := 6#32 }

/-- ENCRYPT of the example about to take its first AD step (R210's example). -/
def encAd : State :=
  { encInit with
    phase := .ad
    st := [0x10#8, 0x36#8, 0x24#8, 0x76#8, 0x64#8, 0x42#8, 0x50#8, 0x8a#8] ++ zeros 248 }

/-- ENCRYPT of the example about to take its first MSG step (R212's example). -/
def encMsg : State :=
  { encInit with
    phase := .msg
    adOff := 5#32
    st := [0x5a#8, 0xdc#8, 0xfc#8, 0x07#8, 0xc4#8, 0x82#8, 0x46#8, 0xcc#8] ++ zeros 248 }

/-- ENCRYPT of the example about to take its FINAL step (R214's example). -/
def encFinal : State :=
  { encMsg with
    phase := .final
    mOff := 6#32
    st := [0x47#8, 0xad#8, 0xc4#8, 0x1e#8, 0x84#8, 0x2a#8, 0xb9#8, 0x05#8] ++ zeros 248 }

/-- DECRYPT of the example about to take its first MSG step. -/
def decMsg : State :=
  { decReady 0x98#8 with
    busy := true
    op := 0x2#4
    phase := .msg
    kl := encInit.kl
    nl := encInit.nl
    ts := [0xb9#8, 0x6f#8, 0x88#8, 0x98#8] ++ zeros 28
    mLen := 6#32
    adOff := 5#32
    st := encMsg.st }

/-- DECRYPT about to compare a computed tag with a supplied one. -/
def decVerify (last : Byte) : State :=
  { decMsg with
    phase := .verify
    mOff := 6#32
    tc := [0xb9#8, 0x6f#8, 0x88#8, 0x98#8] ++ zeros 28
    ts := [0xb9#8, 0x6f#8, 0x88#8, last] ++ zeros 28
    st := encFinal.st }

/-- DECRYPT about to scrub, with the plaintext of the example at OUT_PTR = 0x10 and a mask. -/
def decScrub (mask : Byte) : State :=
  { decVerify 0x98#8 with
    phase := .scrub
    outPtr := 0x10#32
    mask := mask }

/-- The next state of an outcome. -/
def after : Out → State
  | .next t => t
  | .fault _ => State.reset
  | .refused _ => State.reset

/-! WellFormed: every check refuses an ill-formed term. -/

theorem test_instr_reserved_high_needs_a_bit : Instr.wf (.reservedHigh 0#28 3#4) = false := by decide
theorem test_txn_wider_than_32 : Txn.wf { op := .read, width := 64, addr := 0 } = false := by decide
theorem test_dom_constants_equal :
    DomConstants.distinct { Config.toyProfile.dom with adEmpty := 0x10#8 } = false := by decide
theorem test_profile_id_zero : Profile.wf 256 { Config.toyProfile with id := 0x00#8 } = false := by decide
theorem test_profile_id_high : Profile.wf 256 { Config.toyProfile with id := 0x80#8 } = false := by decide
theorem test_profile_unit_zero : Profile.wf 256 { Config.toyProfile with unitAd := 0 } = false := by decide
theorem test_profile_unit_too_long : Profile.wf 256 { Config.toyProfile with unitMsg := 129 } = false := by decide
theorem test_profile_state_too_long : Profile.wf 7 Config.toyProfile = false := by decide
theorem test_profile_key_too_short : Profile.wf 256 { Config.toyProfile with id := 0x07#8 } = false := by decide
theorem test_profile_not_toy_under_toys_id : Profile.wf 256 { Config.toyProfile with maxAd := none } = false := by decide
theorem test_profile_not_the_tables_lengths :
    Profile.wf 256 { Config.toyProfile with
      id := 0x02#8
      keyLen := 16
      nonceLen := 16
      tagLen := 16
      unitAd := 8
      unitMsg := 16 } = false := by decide
theorem test_prim_id : PrimDesc.wf { Config.toyfDesc with id := 0x11#8 } = false := by decide
theorem test_prim_block_too_long : PrimDesc.wf { Config.skinnyDesc with id := 0x02#8, blockBytes := 65 } = false := by
  decide
theorem test_prim_key_too_long : PrimDesc.wf { Config.skinnyDesc with id := 0x02#8, keyBytes := 33 } = false := by decide
theorem test_prim_rounds : PrimDesc.wf { Config.skinnyDesc with id := 0x02#8, defaultRounds := 41 } = false := by decide
theorem test_prim_permutation_with_key :
    PrimDesc.wf { Config.toyfDesc with id := 0x0C#8, keyBytes := 1 } = false := by decide
theorem test_prim_not_toyf : PrimDesc.wf { Config.toyfDesc with maxRounds := 9 } = false := by decide
theorem test_prim_not_skinny : PrimDesc.wf { Config.skinnyDesc with blockBytes := 8 } = false := by decide
theorem test_params_buf_size : Params.wf { Config.defaultParams with bufSize := 66 } = false := by decide
theorem test_params_buf_too_small : Params.wf { Config.defaultParams with bufSize := 60 } = false := by decide
theorem test_params_buf_too_large : Params.wf { Config.defaultParams with bufSize := 32772 } = false := by decide
theorem test_params_family_twice :
    Params.wf { Config.defaultParams with families := [Config.toyProfile, Config.toyProfile] } = false := by decide
theorem test_params_prim_twice :
    Params.wf { Config.defaultParams with prims := [Config.toyfDesc, Config.toyfDesc] } = false := by decide
theorem test_params_state_too_long : Params.wf { Config.defaultParams with sMax := 7 } = false := by decide
theorem test_params_bad_prim :
    Params.wf { Config.defaultParams with prims := [Config.toyfDesc, { Config.skinnyDesc with maxRounds := 41 }] } = false := by
  decide
theorem test_params_without_toy : Params.wf { Config.defaultParams with families := [] } = false := by decide
theorem test_params_without_toyf : Params.wf { Config.defaultParams with prims := [] } = false := by decide
theorem test_defaults_are_well_formed : Params.wf Config.defaultParams = true ∧ Params.wf skinnyParams = true := by decide

/-! Decoding: every constructor's word, bits 31 to 0 written out (R110, R111, R112). -/

theorem test_decode_nop : decode 0b00000000000000000000000000000000#32 = .nop := by decide
theorem test_decode_encrypt : decode 0b00000000000000000000000000000001#32 = .encrypt := by decide
theorem test_decode_decrypt : decode 0b00000000000000000000000000000010#32 = .decrypt := by decide
theorem test_decode_primEnc : decode 0b00000000000000000000000000000011#32 = .primEnc := by decide
theorem test_decode_primDec : decode 0b00000000000000000000000000000100#32 = .primDec := by decide
theorem test_decode_primPerm : decode 0b00000000000000000000000000000101#32 = .primPerm := by decide
theorem test_decode_zeroize : decode 0b00000000000000000000000000000110#32 = .zeroize := by decide
theorem test_decode_reservedHash : decode 0b00000000000000000000000000000111#32 = .reservedHash := by decide
theorem test_decode_reserved8 : decode 0b00000000000000000000000000001000#32 = .reserved8 := by decide
theorem test_decode_reserved9 : decode 0b00000000000000000000000000001001#32 = .reserved9 := by decide
theorem test_decode_reservedA : decode 0b00000000000000000000000000001010#32 = .reservedA := by decide
theorem test_decode_reservedB : decode 0b00000000000000000000000000001011#32 = .reservedB := by decide
theorem test_decode_reservedC : decode 0b00000000000000000000000000001100#32 = .reservedC := by decide
theorem test_decode_reservedD : decode 0b00000000000000000000000000001101#32 = .reservedD := by decide
theorem test_decode_reservedE : decode 0b00000000000000000000000000001110#32 = .reservedE := by decide
theorem test_decode_reservedF : decode 0b00000000000000000000000000001111#32 = .reservedF := by decide
theorem test_decode_reservedHigh :
    decode 0b00000000000000000000000000010000#32 = .reservedHigh 1#28 0#4 ∧
    decode 0b10000000000000000000000000000001#32 = .reservedHigh 0x8000000#28 1#4 := by decide
theorem test_encode_words : encode .zeroize = 0x00000006#32 ∧ encode (.reservedHigh 1#28 1#4) = 0x00000011#32 := by decide
theorem test_decode_bytes_little_endian :
    decodeBytes [0x02#8, 0x00#8, 0x00#8, 0x00#8, 0xff#8] = .ok (.decrypt, [0xff#8]) := by decide
theorem test_decode_truncated : decodeBytes [0x02#8, 0x00#8, 0x00#8] = .error .truncated := by decide
theorem test_decode_table_word : decodeTableWord 32 0x5 = some .primPerm ∧ decodeTableWord 8 0x11 = some (.reservedHigh 1#28 1#4) := by
  decide
theorem test_fetch_runs_the_word : (after (step (State.reset.withFetchWord 32 0x2))).op = 0x2#4 := by decide +kernel

/-! One-step vectors of spec/95_test_vectors.md and of the examples inside the rules. -/

/-- R272's example. -/
theorem test_nop_keeps_the_outcome :
    statusWord (after (exec .nop { ready with done := true, outLen := 10#32 })) = 0x00000002#32 := by decide +kernel

/-- §6, acceptance: DONE, RESULT, DETAIL and OUT_LEN are cleared. -/
theorem test_acceptance_clears :
    statusWord (after (exec .encrypt { ready with
      done := true
      result := .authenticationFailure
      detail := .tagMismatch
      outLen := 6#32 })) = 0x00000011#32 := by decide +kernel

/-- R210's example. -/
theorem test_encrypt_init :
    (after (exec .encrypt encInit)).st.take 8 = [0x10#8, 0x36#8, 0x24#8, 0x76#8, 0x64#8, 0x42#8, 0x50#8, 0x8a#8] := by
  decide +kernel

/-- R214's example, step 2: a partial block. -/
theorem test_encrypt_partial_block :
    (after (exec .encrypt { encMsg with
      mOff := 4#32
      st := [0x5e#8, 0xbb#8, 0x19#8, 0x8b#8, 0xbc#8, 0xe0#8, 0x23#8, 0x32#8] ++ zeros 248 })).buf.readBytes 0x24 3
      = [0x0a#8, 0xee#8, 0x00#8] := by decide +kernel

/-- R215's example, step 1: the state is that of ENCRYPT's step 1. -/
theorem test_decrypt_block :
    (after (exec .decrypt decMsg)).st.take 8 = [0x5e#8, 0xbb#8, 0x19#8, 0x8b#8, 0xbc#8, 0xe0#8, 0x23#8, 0x32#8] := by
  decide +kernel

/-- R254's example: a mismatch zeroes the payload. -/
theorem test_decrypt_scrub :
    (after (exec .decrypt (decScrub 0x00#8))).buf.readBytes 0x0F 8 = zeros 8 ∧
    (after (exec .decrypt (decScrub 0x00#8))).detail = .tagMismatch := by decide +kernel

/-- §1.1's last row, as PRIM_ENC: key and block of zeros. -/
theorem test_primEnc_skinny :
    ((after (exec .primEnc { running skinnyReady .primEnc .prim with buf := [] })).buf.readBytes 8176 4)
      = [0x4c#8, 0xed#8, 0x01#8, 0xd2#8] := by decide +kernel

/-- The same vector back, as PRIM_DEC (R154). -/
theorem test_primDec_skinny : (after (exec .primDec (running skinnyBack .primDec .prim))).buf = [] := by decide +kernel

/-- R155's example: ROUNDS = 2. -/
theorem test_primPerm_two_rounds :
    (after (exec .primPerm { running permReady .primPerm .prim with rounds := 2#8 })).buf.readBytes 0x48 8
      = [0x11#8, 0x11#8, 0xdd#8, 0x99#8, 0x11#8, 0x99#8, 0x44#8, 0x99#8] := by decide +kernel

/-- R155: ROUNDS = 8, START = 1 is BAD_ROUNDS. -/
theorem test_primPerm_bad_rounds :
    (after (exec .primPerm { running permReady .primPerm .check with rounds := 8#8, start := 1#8 })).detail = .badRounds := by
  decide +kernel

/-- R275. -/
theorem test_zeroize_clears : (after (exec .zeroize (running ready .zeroize .bufclr))).buf = [] := by decide +kernel

/-- R276: a reserved-bit word with OPCODE 1 is not ENCRYPT. -/
theorem test_reservedHigh_fails :
    (after (exec (.reservedHigh 1#28 1#4) (running ready .reservedF .check))).detail = .badOpcode := by decide +kernel

/-- R276, the encoding kept for a hash command. -/
theorem test_reservedHash_fails :
    (after (exec .reservedHash (running ready .reservedHash .check))).detail = .badOpcode := by decide +kernel

/-- R83: a 16-bit access at an even offset, lowest byte in the lowest lane. -/
theorem test_bus_half_word :
    (after (step (ready.withEvent (.bus (offTxn ready 0x8010 16 .read))))).response = .data 0x00005150#32 := by
  decide +kernel

/-- R86: an 8-bit access of a register. -/
theorem test_bus_error : step (ready.withEvent (.bus (offTxn ready 0x010 8 .read))) = .fault .busErr := by rfl

/-- R76: STATUS at reset, and after the reset buffer clear. -/
theorem test_reset_status :
    statusWord State.reset = 0x000000A1#32 ∧ statusWord (after (step State.reset)) = 0x00000000#32 := by decide +kernel

/-! Witnesses: for each statement with hypotheses, concrete states and operands that meet them together, for each clause and
at the boundary values of its ranges. -/

theorem witness_DecodeOfEncode :
    Instr.wf .nop = true ∧ Instr.wf (.reservedHigh 1#28 0#4) = true ∧ Instr.wf (.reservedHigh 0xFFFFFFF#28 15#4) = true := by
  decide

theorem witness_DecodingIsTotal : (running ready .encrypt .check).busy = true := by rfl

theorem witness_StepRunsTheWrittenCommand : ready.busy = false := by rfl

theorem witness_StepRunsTheLatchedCommand :
    (running ready (.reservedHigh 1#28 0#4) .wipe).busy = true ∧ Instr.wf (.reservedHigh 1#28 0#4) = true ∧
    Instr.reservedHigh 1#28 0#4 ≠ .nop ∧
    (running ready (.reservedHigh 1#28 0#4) .wipe).op = Instr.latch (.reservedHigh 1#28 0#4) ∧
    (running ready (.reservedHigh 1#28 0#4) .wipe).agenda = [] ∧ ready.busy = false ∧ ready.agenda = [] := by
  decide +kernel

theorem witness_CommandAccepted :
    ready.busy = false ∧ (0x00000010#32 : Word) ≠ 0x00000000#32 ∧ (0x00000001#32 : Word) ≠ 0x00000000#32 ∧
    Instr.wf (.reservedHigh 1#28 0#4) = true ∧ Instr.reservedHigh 1#28 0#4 ≠ .nop := by decide +kernel

theorem witness_NopDoesNothing : ready.busy = false ∧ encInit.busy = true := by decide +kernel

theorem selects_ready : Selects ready Config.toyProfile := by unfold Selects; decide +kernel

theorem witness_AeadCheckPasses_encrypt :
    ready.params.wf = true ∧ Running .encrypt .check (running ready .encrypt .check) ∧
    AeadPasses .enc Config.toyProfile (running ready .encrypt .check) := by
  unfold Running AeadPasses Selects
  decide +kernel

/-- At the boundary: the output ends with BUF (§6, OUT_PTR = 8182). -/
theorem witness_AeadCheckPasses_encrypt_end :
    AeadPasses .enc Config.toyProfile (running { ready with outPtr := 8182#32 } .encrypt .check) := by
  unfold AeadPasses Selects
  decide +kernel

/-- At the boundary: no AD, its pointer outside BUF, and no message. -/
theorem witness_AeadCheckPasses_encrypt_empty :
    AeadPasses .enc Config.toyProfile
      (running { ready with adLen := 0#32, adPtr := 0xFFFFFFFF#32, inLen := 0#32, inPtr := 0xFFFFFFFF#32 } .encrypt .check) := by
  unfold AeadPasses Selects
  decide +kernel

theorem witness_AeadCheckPasses_decrypt :
    Running .decrypt .check (running (decReady 0x98#8) .decrypt .check) ∧
    AeadPasses .dec Config.toyProfile (running (decReady 0x98#8) .decrypt .check) := by
  unfold Running AeadPasses Selects
  decide +kernel

/-- At the boundary: IN_LEN = tagLen, an empty message. -/
theorem witness_AeadCheckPasses_decrypt_empty :
    AeadPasses .dec Config.toyProfile (running { decReady 0x98#8 with inLen := 4#32 } .decrypt .check) := by
  unfold AeadPasses Selects
  decide +kernel

/-- §6: no family selected. -/
theorem witness_FailingCheck_family :
    Running .encrypt .check (running { ready with family := 0x01#8 } .encrypt .check) ∧
    CheckFails .encrypt (running { ready with family := 0x01#8 } .encrypt .check) .badFamily :=
  ⟨⟨rfl, rfl, rfl⟩, .inl ⟨.enc, rfl, .inl ⟨by decide +kernel, rfl⟩⟩⟩

/-- §6: the first failing check of ENCRYPT or DECRYPT, each code at its boundary. -/
theorem witness_FailingCheck_aead :
    firstFailing (aeadFailures .enc Config.toyProfile { ready with keyLen := 5#8, adLen := 65#32 }) = some .badKeyLen ∧
    firstFailing (aeadFailures .enc Config.toyProfile { ready with nonceLen := 8#8 }) = some .badNonceLen ∧
    firstFailing (aeadFailures .dec Config.toyProfile { ready with inLen := 3#32 }) = some .shortInput ∧
    firstFailing (aeadFailures .enc Config.toyProfile { ready with adLen := 65#32, outPtr := 0xFFFFFFF0#32 }) = some .adTooLong ∧
    firstFailing (aeadFailures .dec Config.toyProfile { ready with inLen := 69#32 }) = some .msgTooLong ∧
    firstFailing (aeadFailures .enc Config.toyProfile { ready with outPtr := 8183#32 }) = some .bounds ∧
    firstFailing (aeadFailures .enc Config.toyProfile { ready with outPtr := 0x0B#32 }) = some .overlap := by
  decide +kernel

theorem witness_FailingCheck_bounds :
    Running .encrypt .check (running { ready with outPtr := 8183#32 } .encrypt .check) ∧
    CheckFails .encrypt (running { ready with outPtr := 8183#32 } .encrypt .check) .bounds :=
  ⟨⟨rfl, rfl, rfl⟩,
    .inl ⟨.enc, rfl, .inr ⟨Config.toyProfile, by unfold Selects; decide +kernel, by decide +kernel⟩⟩⟩

theorem witness_FailingCheck_prim :
    Running .primEnc .check (running permReady .primEnc .check) ∧
    CheckFails .primEnc (running permReady .primEnc .check) .badPrim ∧
    CheckFails .primPerm (running { permReady with psel := 0x00#8 } .primPerm .check) .badPrim :=
  ⟨⟨rfl, rfl, rfl⟩,
    .inr (.inl ⟨.enc, rfl, .inr ⟨Config.toyfDesc, by unfold SelectsPrim; decide +kernel, by decide +kernel⟩⟩),
    .inr (.inl ⟨.perm, rfl, .inl ⟨by decide +kernel, rfl⟩⟩)⟩

theorem witness_FailingCheck_reserved :
    Running (.reservedHigh 1#28 1#4) .check (running ready (.reservedHigh 1#28 1#4) .check) ∧
    CheckFails (.reservedHigh 1#28 1#4) (running ready (.reservedHigh 1#28 1#4) .check) .badOpcode :=
  ⟨⟨rfl, rfl, rfl⟩, .inr (.inr ⟨rfl, rfl⟩)⟩

theorem witness_InitStep :
    encInit.params.wf = true ∧ Selects encInit Config.toyProfile ∧ Running (Dir.instr .enc) .init encInit ∧
    Running (Dir.instr .dec) .init { encInit with op := 0x2#4 } := by
  unfold Selects Running
  decide +kernel

theorem witness_AdStep :
    encAd.params.wf = true ∧ Selects encAd Config.toyProfile ∧ Running (Dir.instr .enc) .ad encAd ∧
    Running (Dir.instr .dec) .ad { encAd with op := 0x2#4 } ∧
    midPhase encAd.adLen.toNat encAd.adOff.toNat ∧ encAd.adPtr.toNat + encAd.adLen.toNat ≤ encAd.params.bufSize := by
  unfold Selects Running midPhase
  decide +kernel

/-- At the boundaries: the empty AD, and the last byte of an AD that ends with BUF. -/
theorem witness_AdStep_ends :
    (midPhase 0 0 ∧ ({ encAd with adLen := 0#32, adPtr := 0xFFFFFFFF#32 } : State).adLen.toNat = 0) ∧
    (midPhase 5 4 ∧ ({ encAd with adPtr := 8187#32 } : State).adPtr.toNat + 5 ≤ encAd.params.bufSize) := by
  unfold midPhase
  decide +kernel

theorem witness_MsgStepOfEncrypt :
    encMsg.params.wf = true ∧ encMsg.buf.wf = true ∧ Selects encMsg Config.toyProfile ∧ Running .encrypt .msg encMsg ∧
    midPhase encMsg.mLen.toNat encMsg.mOff.toNat ∧ encMsg.inPtr.toNat + encMsg.mLen.toNat ≤ encMsg.params.bufSize ∧
    encMsg.outPtr.toNat + encMsg.mLen.toNat ≤ encMsg.params.bufSize := by
  unfold Selects Running midPhase
  decide +kernel

/-- At the boundaries: the empty message, and the last byte of a message that ends with BUF. -/
theorem witness_MsgStepOfEncrypt_ends :
    midPhase 0 0 ∧ midPhase 6 5 ∧ ({ encMsg with outPtr := 8186#32 } : State).outPtr.toNat + 6 ≤ encMsg.params.bufSize := by
  unfold midPhase
  decide +kernel

theorem witness_MsgStepOfDecrypt :
    decMsg.params.wf = true ∧ decMsg.buf.wf = true ∧ Selects decMsg Config.toyProfile ∧ Running .decrypt .msg decMsg ∧
    midPhase decMsg.mLen.toNat decMsg.mOff.toNat ∧ decMsg.inPtr.toNat + decMsg.mLen.toNat ≤ decMsg.params.bufSize ∧
    decMsg.outPtr.toNat + decMsg.mLen.toNat ≤ decMsg.params.bufSize := by
  unfold Selects Running midPhase
  decide +kernel

/-- The tag's bytes end with BUF. -/
theorem witness_FinalStep_encrypt :
    encFinal.params.wf = true ∧ encFinal.buf.wf = true ∧ Selects encFinal Config.toyProfile ∧
    Running .encrypt .final { encFinal with outPtr := 8182#32 } ∧
    ({ encFinal with outPtr := 8182#32 } : State).outPtr.toNat + encFinal.mLen.toNat + Config.toyProfile.tagLen
      ≤ encFinal.params.bufSize := by
  unfold Selects Running
  decide +kernel

theorem witness_FinalStep_decrypt : Running .decrypt .final { decMsg with phase := .final } := by
  unfold Running
  decide +kernel

theorem witness_VerifyStep :
    (decVerify 0x98#8).params.wf = true ∧ Selects (decVerify 0x98#8) Config.toyProfile ∧
    Running .decrypt .verify (decVerify 0x98#8) := by
  unfold Selects Running
  decide +kernel

theorem witness_ScrubStep :
    (decScrub 0xFF#8).buf.wf = true ∧ Running .decrypt .scrub (decScrub 0xFF#8) ∧
    (decScrub 0xFF#8).outPtr.toNat + (decScrub 0xFF#8).mLen.toNat ≤ (decScrub 0xFF#8).params.bufSize := by
  unfold Running
  decide +kernel

/-- At the boundary: an empty payload, its pointer outside BUF. -/
theorem witness_ScrubStep_empty :
    Running .decrypt .scrub { decScrub 0x00#8 with mLen := 0#32, outPtr := 0xFFFFFFFF#32 } ∧
    ({ decScrub 0x00#8 with mLen := 0#32, outPtr := 0xFFFFFFFF#32 } : State).mLen.toNat = 0 := by
  unfold Running
  decide +kernel

theorem witness_ComparatorMask :
    (1 ≤ 1 ∧ 1 ≤ 32 ∧ 1 ≤ List.length [0x12#8, 0x34#8]) ∧ (1 ≤ 32 ∧ 32 ≤ 32 ∧ 32 ≤ (zeros 32).length) := by decide

theorem witness_PrimCheck :
    permReady.params.wf = true ∧ Running (PrimOp.instr .perm) .check (running permReady .primPerm .check) ∧
    (∀ D ∈ permReady.params.prims, D.id ≠ ({ permReady with psel := 0x01#8 } : State).psel) ∧
    SelectsPrim permReady Config.toyfDesc ∧
    firstFailing (primFailures .perm Config.toyfDesc { permReady with rounds := 8#8 }) = none ∧
    firstFailing (primFailures .perm Config.toyfDesc { permReady with rounds := 8#8, start := 1#8 }) = some .badRounds ∧
    firstFailing (primFailures .perm Config.toyfDesc { permReady with inLen := 7#32 }) = some .badBlockLen ∧
    firstFailing (primFailures .perm Config.toyfDesc { permReady with outPtr := 8190#32 }) = some .bounds ∧
    firstFailing (primFailures .dec Config.toyfDesc permReady) = some .badPrim := by
  unfold Running SelectsPrim
  decide +kernel

theorem witness_PrimCheck_skinny :
    skinnyReady.params.wf = true ∧ SelectsPrim skinnyReady Config.skinnyDesc ∧
    Running (PrimOp.instr .enc) .check (running skinnyReady .primEnc .check) ∧
    Running (PrimOp.instr .dec) .check (running skinnyReady .primDec .check) ∧
    firstFailing (primFailures .enc Config.skinnyDesc skinnyReady) = none ∧
    firstFailing (primFailures .dec Config.skinnyDesc skinnyReady) = none ∧
    firstFailing (primFailures .enc Config.skinnyDesc { skinnyReady with keyLen := 15#8 }) = some .badKeyLen ∧
    firstFailing (primFailures .enc Config.skinnyDesc { skinnyReady with keyPtr := 8177#32 }) = some .bounds := by
  unfold Running SelectsPrim
  decide +kernel

/-- Key and output end with BUF. -/
theorem witness_PrimStep_skinny :
    skinnyReady.params.wf = true ∧ skinnyReady.buf.wf = true ∧ SelectsPrim skinnyReady Config.skinnyDesc ∧
    Running (PrimOp.instr .enc) .prim (running skinnyReady .primEnc .prim) ∧
    Running (PrimOp.instr .dec) .prim (running skinnyReady .primDec .prim) ∧
    skinnyReady.inPtr.toNat + Config.skinnyDesc.blockBytes ≤ skinnyReady.params.bufSize ∧
    skinnyReady.outPtr.toNat + Config.skinnyDesc.blockBytes ≤ skinnyReady.params.bufSize ∧
    skinnyReady.keyPtr.toNat + Config.skinnyDesc.keyBytes ≤ skinnyReady.params.bufSize := by
  unfold Running SelectsPrim
  decide +kernel

/-- PRIM_PERM ignores KEY_PTR. -/
theorem witness_PrimStep_perm :
    SelectsPrim permReady Config.toyfDesc ∧
    Running (PrimOp.instr .perm) .prim (running { permReady with keyPtr := 0xFFFFFFFF#32 } .primPerm .prim) ∧
    permReady.inPtr.toNat + Config.toyfDesc.blockBytes ≤ permReady.params.bufSize ∧
    permReady.outPtr.toNat + Config.toyfDesc.blockBytes ≤ permReady.params.bufSize ∧
    (PrimOp.perm ≠ .perm → Config.toyfDesc.keyBytes = 0 ∨ 0xFFFFFFFF + Config.toyfDesc.keyBytes ≤ 8192) := by
  unfold Running SelectsPrim
  decide +kernel

theorem witness_SkinnyDecrypts : (zeros 16).length = 16 := by decide

/-- SKINNY-128-128: the full cipher, and the round pairs at the ends of the legal range. -/
theorem witness_PrimInverse :
    PrimDesc.wf Config.skinnyDesc = true ∧ Config.skinnyDesc.hasDec = true ∧
    legalRounds Config.skinnyDesc 40 0 = true ∧ legalRounds Config.skinnyDesc 1 39 = true ∧
    legalRounds Config.skinnyDesc 1 40 = false ∧ legalRounds Config.skinnyDesc 0 0 = false ∧
    (zeros 16).length = Config.skinnyDesc.keyBytes ∧ (zeros 16).length = Config.skinnyDesc.blockBytes := by decide

/-- R142 at a round pair whose functions are free. -/
theorem test_partial_rounds_invert :
    primDecBlock Config.skinnyDesc (zeros 16) 1 39 (primEncBlock Config.skinnyDesc (zeros 16) 1 39 (zeros 16)) = zeros 16 :=
  primDecBlock_primEncBlock_of_free (by decide) (by decide) (by decide)

theorem witness_WipeStep :
    Instr.wf .decrypt = true ∧ Instr.decrypt ≠ .nop ∧ Running .decrypt .wipe { decScrub 0xFF#8 with phase := .wipe } := by
  unfold Running
  decide +kernel

theorem witness_BufclrStep :
    ((running ready .zeroize .bufclr).busy = true ∧ (running ready .zeroize .bufclr).phase = .bufclr ∧
      (running ready .zeroize .bufclr).op = 0x6#4) ∧
    (State.reset.busy = true ∧ State.reset.phase = .bufclr ∧ State.reset.op = 0x0#4) := by decide +kernel

theorem ready_is_ready : Ready ready := by
  unfold Ready
  decide +kernel

theorem witness_ZeroizeCompletes : Running .zeroize .check (running ready .zeroize .check) ∧ Ready ready :=
  ⟨⟨rfl, rfl, rfl⟩, ready_is_ready⟩

theorem witness_ReservedEncodings :
    Instr.wf (.reservedHigh 1#28 0#4) = true ∧ Instr.isReserved (.reservedHigh 1#28 0#4) = true ∧
    Running (.reservedHigh 1#28 0#4) .check (running ready (.reservedHigh 1#28 0#4) .check) ∧ Ready ready :=
  ⟨by decide, rfl, ⟨rfl, rfl, rfl⟩, ready_is_ready⟩

theorem witness_PaddedBlock :
    ((zeros 128).length ≤ 128 ∧ 128 ≤ 128 ∧ (zeros 128).length = 128) ∧
    ((zeros 127).length ≤ 128 ∧ (zeros 127).length < 128) ∧ (List.length ([] : Bytes) ≤ 1 ∧ List.length ([] : Bytes) < 1) := by
  decide +kernel

theorem witness_ClassesOfAPhase : 1 ≤ 1 ∧ 1 ≤ 128 ∧ 0 < 45 := by decide

theorem witness_DomainSeparation : Profile.wf 256 Config.toyProfile = true ∧ 2 ≤ Config.toyProfile.unitMsg := by decide

theorem witness_WordPacking : 0 < 2 ^ (8 * 0) ∧ 0xFFFFFFFF < 2 ^ (8 * 4) := by decide

theorem witness_BusyRule :
    encInit.params.wf = true ∧ encInit.busy = true ∧ WindowAccess encInit 0x8000 32 ∧
    WindowAccess encInit (0x8000 + 8191) 8 ∧ WindowAccess encInit (0x8000 + 8190) 16 ∧ ready.busy = false ∧
    HostReg.isOperand .primCfg = true := by
  unfold WindowAccess InWindow Aligned
  decide +kernel

/-- A host error that was there before an idle transaction. -/
theorem witness_BusyRule_idle :
    step (({ ready with hostErr := true } : State).withEvent (.bus (regTxn ready .status .read))) =
      .next { ready with hostErr := true, response := .data (statusWord { ready with hostErr := true }) } := by rfl

theorem witness_BufWindow :
    ready.params.wf = true ∧ ready.buf.wf = true ∧ ready.busy = false ∧ WindowAccess ready 0x8000 32 ∧
    WindowAccess ready (0x8000 + 8188) 32 ∧ WindowAccess ready (0x8000 + 8191) 8 ∧ 8191 < ready.params.bufSize := by
  unfold WindowAccess InWindow Aligned
  decide +kernel

theorem witness_IgnoredAccesses :
    UnmappedAccess ready 0x100 8 ∧ UnmappedAccess ready 0x7FFE 16 ∧ UnmappedAccess ready (0x8000 + 8192) 32 ∧
    UnmappedAccess ready 0xFFFF 8 ∧ (0x058 ≤ 0x058 ∧ 0x058 < 0x100 ∧ 0x058 % 4 = 0) ∧
    (0x058 ≤ 0x0FC ∧ 0x0FC < 0x100 ∧ 0x0FC % 4 = 0) ∧ HostReg.isReadOnly .outLen = true := by
  unfold UnmappedAccess InRegisters InWindow Aligned
  decide +kernel

theorem witness_InfoRegisters :
    ready.params.wf = true ∧ Selects ready Config.toyProfile ∧ SelectsPrim permReady Config.toyfDesc ∧
    (∀ P ∈ ready.params.families, P.id ≠ ({ ready with family := 0x01#8 } : State).family) ∧
    (∀ D ∈ ready.params.prims, D.id ≠ ({ ready with psel := 0x01#8 } : State).psel) ∧ State.reset.family = 0x00#8 ∧
    State.reset.psel = 0x00#8 := by
  unfold Selects SelectsPrim
  decide +kernel

theorem witness_OperandRegisters_write : ready.busy = false ∧ HostReg.isOperand .family = true := by decide +kernel

theorem witness_OperandRegisters_turn : step (ready.withEvent .turn) = .next ready := by rfl

theorem witness_OperandRegisters_change :
    step (ready.withEvent (.bus (regTxn ready .adLen (.write 7#32)))) =
      .next { ready with adLen := 7#32, response := .written } ∧
    ¬ SameOperands ready { ready with adLen := 7#32, response := .written } := by
  refine ⟨by rfl, ?_⟩
  unfold SameOperands
  decide +kernel

theorem witness_CtrlRegister : (0x00000001#32).getLsbD 1 = false ∧ (0x00000002#32).getLsbD 1 = true := by decide

theorem witness_IrqRises_wipe :
    step (({ running ready .zeroize .wipe with ie := true } : State).withEvent .turn) =
      .next (wipe { running ready .zeroize .wipe with ie := true }) ∧
    irq { running ready .zeroize .wipe with ie := true } = false ∧
    irq (wipe { running ready .zeroize .wipe with ie := true }) = true :=
  ⟨rfl, rfl, rfl⟩

theorem witness_IrqRises_enable :
    step (({ ready with done := true } : State).withEvent (.bus (regTxn ready .ctrl (.write 1#32)))) =
      .next { ready with done := true, ie := true, response := .written } ∧
    irq { ready with done := true } = false ∧ irq { ready with done := true, ie := true, response := .written } = true :=
  ⟨rfl, rfl, rfl⟩

theorem witness_HostErrIsSticky_rises :
    step (encInit.withEvent (.bus (regTxn encInit .cmd (.write 0#32)))) =
      .next { encInit with hostErr := true, response := .written } ∧ encInit.hostErr = false := ⟨rfl, rfl⟩

theorem witness_HostErrIsSticky_falls :
    step (({ ready with hostErr := true } : State).withEvent (.bus (regTxn ready .status (.write 0x100#32)))) =
      .next { ready with hostErr := false, response := .written } := rfl

theorem witness_Reset :
    (0x00000002#32).getLsbD 1 = true ∧ AtReset ready { State.reset with response := .written } := by
  unfold AtReset InternalsZero DataInternalsZero
  decide +kernel

theorem witness_InstanceIsFixed : step ready = .next ready := by rfl

theorem witness_SequencerKeepsHostState :
    step ((running ready .zeroize .wipe).withEvent .turn) = .next (wipe (running ready .zeroize .wipe)) := rfl

theorem witness_BusyPeriodIsUndisturbed :
    encInit.busy = true ∧
    step (encInit.withEvent (.bus (offTxn encInit 0x8010 8 (.write 0xFF#32)))) =
      .next { encInit with hostErr := true, response := .written } ∧ ready.busy = false := ⟨rfl, rfl, rfl⟩

/-! A running state of the invariant: ENCRYPT of the example before its INIT step. -/

theorem encInit_checked : aeadCheck .enc encInit = .ok Config.toyProfile := by rfl

theorem encInit_running : AeadRunning .enc Config.toyProfile encInit where
  checked := encInit_checked
  mLen := rfl
  position := ⟨rfl, rfl⟩
  st := by decide +kernel
  stInit := fun _ => rfl
  kl := by decide +kernel
  nl := by decide +kernel
  tc := by decide +kernel
  ts := ⟨by decide +kernel, fun _ => rfl⟩
  mask := .inl rfl

theorem encInit_inv : MachineInv encInit where
  params := by decide +kernel
  bufWf := by decide +kernel
  bufIn := by decide +kernel
  widths := by decide +kernel
  idle := fun h => by cases h
  running := fun _ => ⟨rfl, rfl⟩
  outcome := rfl
  pending := fun _ _ => ⟨rfl, rfl, rfl⟩
  fresh := fun _ h => by rcases h with h | h | h <;> cases h
  aead := fun d _ ho _ => by
    cases d with
    | enc => exact ⟨_, encInit_running⟩
    | dec => exact absurd ho (by decide)
  prim := fun _ _ _ h => by cases h

theorem witness_InvariantKept : MachineInv encInit ∧ step encInit = .next { encInit with
    st := fit 256 (famInit Config.toyProfile (encInit.kl.take 4) (encInit.nl.take 4))
    phase := .ad } := ⟨encInit_inv, rfl⟩

theorem witness_NoStepIsStuck : MachineInv encInit := encInit_inv

theorem witness_EncryptCompletes : Ready ready ∧ AeadPasses .enc Config.toyProfile ready := by
  refine ⟨ready_is_ready, ?_⟩
  unfold AeadPasses Selects
  decide +kernel

/-- With the tag right, and with its last byte wrong. -/
theorem witness_DecryptCompletes :
    (Ready (decReady 0x98#8) ∧ AeadPasses .dec Config.toyProfile (decReady 0x98#8)) ∧
    Ready (decReady 0x99#8) ∧ AeadPasses .dec Config.toyProfile (decReady 0x99#8) := by
  unfold Ready AeadPasses Selects
  decide +kernel

/-- The plaintext of R273's example. -/
def plain : Bytes := [0x50#8, 0x51#8, 0x52#8, 0x53#8, 0x54#8, 0x55#8]

theorem witness_RoundTrip :
    EncDecLaw Config.toyProfile ∧ plain.length = (decReady 0x98#8).inLen.toNat - Config.toyProfile.tagLen ∧
    (decReady 0x98#8).buf.readBytes 0x20 10 =
      aeadEnc Config.toyProfile ((decReady 0x98#8).buf.readBytes 0x00 4) ((decReady 0x98#8).buf.readBytes 0x04 4)
        ((decReady 0x98#8).buf.readBytes 0x08 5) plain :=
  ⟨toy_encDec, by decide +kernel, by decide +kernel⟩

theorem witness_TagTampering :
    plain.length = (decReady 0x99#8).inLen.toNat - Config.toyProfile.tagLen ∧
    (decReady 0x99#8).buf.readBytes 0x20 6 =
      (aeadEncParts Config.toyProfile ((decReady 0x99#8).buf.readBytes 0x00 4) ((decReady 0x99#8).buf.readBytes 0x04 4)
        ((decReady 0x99#8).buf.readBytes 0x08 5) plain).1 ∧
    (decReady 0x99#8).buf.readBytes 0x26 4 ≠
      (aeadEncParts Config.toyProfile ((decReady 0x99#8).buf.readBytes 0x00 4) ((decReady 0x99#8).buf.readBytes 0x04 4)
        ((decReady 0x99#8).buf.readBytes 0x08 5) plain).2 := by decide +kernel

theorem witness_InPlace :
    Ready ready ∧ Ready { ready with outPtr := 0x10#32 } ∧ AeadPasses .enc Config.toyProfile ready ∧
    AeadPasses .enc Config.toyProfile { ready with outPtr := 0x10#32 } ∧
    ({ ready with outPtr := 0x10#32 } : State).inPtr = ({ ready with outPtr := 0x10#32 } : State).outPtr := by
  unfold Ready AeadPasses Selects
  decide +kernel

theorem witness_PrimCompletes :
    (Ready permReady ∧ PrimPasses .perm Config.toyfDesc permReady) ∧
    Ready skinnyReady ∧ PrimPasses .enc Config.skinnyDesc skinnyReady ∧ PrimPasses .dec Config.skinnyDesc skinnyReady := by
  unfold Ready PrimPasses SelectsPrim
  decide +kernel

theorem witness_PrimDecUndoesPrimEnc :
    Ready skinnyBack ∧ PrimPasses .dec Config.skinnyDesc skinnyBack ∧ (zeros 16).length = Config.skinnyDesc.blockBytes ∧
    skinnyBack.buf.readBytes 0x40 16 =
      primEncBlock Config.skinnyDesc (skinnyBack.buf.readBytes 0x80 16)
        (if skinnyBack.rounds = 0#8 then Config.skinnyDesc.defaultRounds else skinnyBack.rounds.toNat) 0 (zeros 16) := by
  unfold Ready PrimPasses SelectsPrim
  decide +kernel

theorem witness_FailuresArePrecise :
    Ready { ready with family := 0x01#8 } ∧ CheckFails .encrypt { ready with family := 0x01#8 } .badFamily :=
  ⟨by unfold Ready; decide +kernel, .inl ⟨.enc, rfl, .inl ⟨by decide +kernel, rfl⟩⟩⟩

/-- Two states that differ in the key. -/
theorem witness_ConstantTime :
    PublicEqual encInit { encInit with kl := zeros 32, buf := [] } ∧ ∃ t : State, step encInit = .next t := by
  refine ⟨?_, _, rfl⟩
  unfold PublicEqual SameOperands
  decide +kernel

theorem witness_HiddenFromTheHost :
    SameButHidden encInit { encInit with kl := zeros 32 } ∧ SameButSecret encInit { encInit with kl := zeros 32, buf := [] } ∧
    encInit.busy = true ∧
    step (encInit.withEvent (.bus (offTxn encInit 0x8010 8 .read))) =
      .next { encInit with hostErr := true, response := .data 0#32 } := ⟨rfl, rfl, rfl, rfl⟩

end Sys2Proof.Tests
end

/-! Prover's lemmas, 00_scope.md: the byte order of a word (R16). -/
section
namespace Sys2Proof.Machine

/-! `loadLE` and `storeLE`. -/

/-- `loadLE` is Mathlib's value of a digit string, in base 256. -/
theorem loadLE_eq_ofDigits (b : Bytes) : loadLE b = Nat.ofDigits 256 (b.map BitVec.toNat) := by
  induction b with
  | nil => rfl
  | cons x xs ih => simp [loadLE, ih, Nat.ofDigits_cons]

theorem loadLE_lt (b : Bytes) : loadLE b < 2 ^ (8 * b.length) := by
  have hdigits : ∀ d ∈ b.map BitVec.toNat, d < 256 := by
    intro d hd
    obtain ⟨x, -, rfl⟩ := List.mem_map.mp hd
    exact x.isLt
  have hlt := Nat.ofDigits_lt_base_pow_length (by norm_num) hdigits
  rw [loadLE_eq_ofDigits, pow_mul]
  simpa using hlt

theorem loadLE_append (a b : Bytes) : loadLE (a ++ b) = loadLE a + 2 ^ (8 * a.length) * loadLE b := by
  rw [loadLE_eq_ofDigits, List.map_append, Nat.ofDigits_append, List.length_map, ← loadLE_eq_ofDigits,
    ← loadLE_eq_ofDigits, pow_mul]
  norm_num

/-- Storing keeps the low `8 * n` bits, for every `v`. -/
theorem loadLE_storeLE (n v : Nat) : loadLE (storeLE n v) = v % 2 ^ (8 * n) := by
  induction n generalizing v with
  | zero => simp [storeLE, loadLE, Nat.mod_one]
  | succ n ih =>
    calc loadLE (storeLE (n + 1) v)
        = v % 256 + 256 * (v / 256 % 2 ^ (8 * n)) := by simp [storeLE, loadLE, ih]
      _ = v % (256 * 2 ^ (8 * n)) := (Nat.mod_mul).symm
      _ = v % 2 ^ (8 * (n + 1)) := by congr 1; ring

theorem storeLE_loadLE (b : Bytes) : storeLE b.length (loadLE b) = b := by
  induction b with
  | nil => rfl
  | cons x xs ih =>
    have hlow : BitVec.ofNat 8 (x.toNat + 256 * loadLE xs) = x := by
      apply BitVec.eq_of_toNat_eq
      rw [BitVec.toNat_ofNat]
      omega
    have hhigh : (x.toNat + 256 * loadLE xs) / 256 = loadLE xs := by omega
    simp only [List.length_cons, storeLE, loadLE, hlow, hhigh, ih]

/-! `loadWord` and `storeWord`. -/

@[simp] theorem storeWord_length (e : Endian) (n v : Nat) : (storeWord e n v).length = n := by
  cases e <;> simp [storeWord]

theorem loadWord_lt (e : Endian) (b : Bytes) : loadWord e b < 2 ^ (8 * b.length) := by
  cases e with
  | le => exact loadLE_lt b
  | be => simpa [loadWord] using loadLE_lt b.reverse

theorem loadWord_storeWord (e : Endian) {n v : Nat} (hv : v < 2 ^ (8 * n)) :
    loadWord e (storeWord e n v) = v := by
  have hle : loadLE (storeLE n v) = v := by rw [loadLE_storeLE, Nat.mod_eq_of_lt hv]
  cases e with
  | le => exact hle
  | be => simpa [loadWord, storeWord] using hle

theorem storeWord_loadWord (e : Endian) (b : Bytes) : storeWord e b.length (loadWord e b) = b := by
  cases e with
  | le => exact storeLE_loadLE b
  | be =>
    have hrev := storeLE_loadLE b.reverse
    rw [List.length_reverse] at hrev
    simp [storeWord, loadWord, hrev]

/-! The sums of R16. -/

@[simp] theorem byteAt_cons_zero (x : Byte) (xs : Bytes) : byteAt (x :: xs) 0 = x := rfl

@[simp] theorem byteAt_cons_succ (x : Byte) (xs : Bytes) (i : Nat) : byteAt (x :: xs) (i + 1) = byteAt xs i := rfl

theorem loadWord_le_eq_sum (b : Bytes) :
    loadWord .le b = ((List.range b.length).map (fun k => (byteAt b k).toNat * 2 ^ (8 * k))).sum := by
  induction b with
  | nil => rfl
  | cons x xs ih =>
    have hweight : ∀ k, (byteAt xs k).toNat * 2 ^ (8 * (k + 1)) = 256 * ((byteAt xs k).toNat * 2 ^ (8 * k)) := by
      intro k
      rw [Nat.mul_succ, pow_add]
      ring
    have hstep : loadWord .le (x :: xs) = x.toNat + 256 * loadWord .le xs := rfl
    rw [hstep, ih]
    simp [List.range_succ_eq_map, Function.comp_def, hweight, List.sum_map_mul_left]

/-- The first byte has the highest weight: `loadLE_append` splits it off the end of the reversed string. -/
theorem loadWord_be_eq_sum (b : Bytes) :
    loadWord .be b =
      ((List.range b.length).map (fun k => (byteAt b k).toNat * 2 ^ (8 * (b.length - 1 - k)))).sum := by
  induction b with
  | nil => rfl
  | cons x xs ih =>
    have hstep : loadWord .be (x :: xs) = loadWord .be xs + 2 ^ (8 * xs.length) * x.toNat := by
      simp [loadWord, loadLE_append, loadLE]
    rw [hstep, ih, List.length_cons, List.range_succ_eq_map, List.map_cons, List.sum_cons, List.map_map, add_comm,
      mul_comm (2 ^ _)]
    simp only [Function.comp_def, Nat.succ_eq_add_one, byteAt_cons_zero, byteAt_cons_succ, Nat.sub_sub, Nat.add_comm 1,
      Nat.add_sub_cancel, Nat.sub_zero]

/-- Settles O29: the two inverse laws carry over from `loadLE` and `storeLE`, and each sum is by induction on the bytes. -/
theorem wordPacking : Obligations.WordPacking := fun e =>
  ⟨fun n v hv => ⟨storeWord_length e n v, loadWord_storeWord e hv⟩,
    fun b => ⟨loadWord_lt e b, storeWord_loadWord e b⟩, loadWord_le_eq_sum, loadWord_be_eq_sum⟩

end Sys2Proof.Machine
end

/-! Prover's lemmas, 00_scope.md: what a sequencer step may write, and that no step changes a parameter (R10). -/
section
namespace Sys2Proof.Machine

/-! The sequencer writes the status flags, OUT_LEN, the internal registers and BUF, and nothing else (R54, R71). -/

/-- `t` is `s` but for the fields the sequencer may write. -/
def EngineFrame (s t : State) : Prop :=
  t = { s with
    busy := t.busy
    done := t.done
    result := t.result
    phase := t.phase
    detail := t.detail
    outLen := t.outLen
    st := t.st
    kl := t.kl
    nl := t.nl
    tc := t.tc
    ts := t.ts
    mask := t.mask
    op := t.op
    adOff := t.adOff
    mOff := t.mOff
    mLen := t.mLen
    buf := t.buf }

theorem EngineFrame.params_eq {s t : State} (h : EngineFrame s t) : t.params = s.params := by
  unfold EngineFrame at h
  rw [h]

theorem EngineFrame.refl (s : State) : EngineFrame s s := rfl

theorem acceptCommand_frame (op : BitVec 4) (s : State) : EngineFrame s (acceptCommand op s) := rfl

theorem raiseInvalidParameters_frame (d : Detail) (s : State) : EngineFrame s (raiseInvalidParameters d s) := rfl

theorem wipe_frame (s : State) : EngineFrame s (wipe s) := rfl

theorem resetClear_frame (s : State) : EngineFrame s (resetClear s) := rfl

theorem zeroizeBuf_frame (s : State) : EngineFrame s (zeroizeBuf s) := rfl

theorem aeadCheckStep_frame {d : Dir} {s t : State} (h : aeadCheckStep d s = .next t) : EngineFrame s t := by
  obtain ⟨e, -, rfl⟩ | ⟨P, -, rfl⟩ := aeadCheckStep_next h
  · exact raiseInvalidParameters_frame e s
  · rfl

theorem initStep_frame {s t : State} (h : initStep s = .next t) : EngineFrame s t := by
  unfold initStep at h
  split at h
  · cases h
  · cases h
    rfl

theorem adStep_frame {s t : State} (h : adStep s = .next t) : EngineFrame s t := by
  obtain ⟨P, -, -, rfl⟩ := adStep_next h
  rfl

theorem msgStep_frame {d : Dir} {s t : State} (h : msgStep d s = .next t) : EngineFrame s t := by
  obtain ⟨P, -, -, -, rfl⟩ := msgStep_next h
  rfl

theorem finalStep_frame {d : Dir} {s t : State} (h : finalStep d s = .next t) : EngineFrame s t := by
  obtain ⟨P, -, ⟨-, rfl⟩ | ⟨-, -, rfl⟩⟩ := finalStep_next h
  · rfl
  · rfl

theorem verifyStep_frame {s t : State} (h : verifyStep s = .next t) : EngineFrame s t := by
  obtain ⟨P, -, rfl⟩ := verifyStep_next h
  rfl

theorem scrubStep_frame {s t : State} (h : scrubStep s = .next t) : EngineFrame s t := by
  obtain ⟨-, rfl⟩ := scrubStep_next h
  rfl

theorem primCheckStep_frame {o : PrimOp} {s t : State} (h : primCheckStep o s = .next t) : EngineFrame s t := by
  obtain ⟨e, -, rfl⟩ | ⟨D, -, rfl⟩ := primCheckStep_next h
  · exact raiseInvalidParameters_frame e s
  · rfl

theorem primStep_frame {o : PrimOp} {s t : State} (h : primStep o s = .next t) : EngineFrame s t := by
  obtain ⟨D, -, -, -, -, rfl⟩ := primStep_next h
  rfl

/-! The step PHASE selects, for each kind of command (R206). -/

theorem resetTurn_frame {s t : State} (h : resetTurn s = .next t) : EngineFrame s t := by
  cases hp : s.phase <;> simp only [resetTurn, hp] at h
  case bufclr => cases h; exact resetClear_frame s
  case wipe => cases h; exact wipe_frame s
  all_goals cases h

theorem encryptSequence_frame {s t : State} (h : encryptSequence s = .next t) : EngineFrame s t := by
  cases hp : s.phase <;> simp only [encryptSequence, hp] at h
  case check => exact aeadCheckStep_frame h
  case init => exact initStep_frame h
  case ad => exact adStep_frame h
  case msg => exact msgStep_frame h
  case final => exact finalStep_frame h
  case wipe => cases h; exact wipe_frame s
  all_goals cases h

theorem decryptSequence_frame {s t : State} (h : decryptSequence s = .next t) : EngineFrame s t := by
  cases hp : s.phase <;> simp only [decryptSequence, hp] at h
  case check => exact aeadCheckStep_frame h
  case init => exact initStep_frame h
  case ad => exact adStep_frame h
  case msg => exact msgStep_frame h
  case final => exact finalStep_frame h
  case verify => exact verifyStep_frame h
  case scrub => exact scrubStep_frame h
  case wipe => cases h; exact wipe_frame s
  all_goals cases h

theorem primSequence_frame {o : PrimOp} {s t : State} (h : primSequence o s = .next t) : EngineFrame s t := by
  cases hp : s.phase <;> simp only [primSequence, hp] at h
  case check => exact primCheckStep_frame h
  case prim => exact primStep_frame h
  case wipe => cases h; exact wipe_frame s
  all_goals cases h

theorem zeroizeSequence_frame {s t : State} (h : zeroizeSequence s = .next t) : EngineFrame s t := by
  cases hp : s.phase <;> simp only [zeroizeSequence, hp] at h
  case check => cases h; rfl
  case bufclr => cases h; exact zeroizeBuf_frame s
  case wipe => cases h; exact wipe_frame s
  all_goals cases h

theorem reservedSequence_frame {s t : State} (h : reservedSequence s = .next t) : EngineFrame s t := by
  cases hp : s.phase <;> simp only [reservedSequence, hp] at h
  case check => cases h; exact raiseInvalidParameters_frame .badOpcode s
  case wipe => cases h; exact wipe_frame s
  all_goals cases h

theorem sequenceOf_frame {op : BitVec 4} {s t : State} (h : sequenceOf op s = .next t) : EngineFrame s t := by
  unfold sequenceOf at h
  generalize op.toNat = n at h
  match n, h with
  | 0, h => exact resetTurn_frame h
  | 1, h => exact encryptSequence_frame h
  | 2, h => exact decryptSequence_frame h
  | 3, h => exact primSequence_frame h
  | 4, h => exact primSequence_frame h
  | 5, h => exact primSequence_frame h
  | 6, h => exact zeroizeSequence_frame h
  | _ + 7, h => exact reservedSequence_frame h

/-- No sequencer step writes anything else, whatever BUSY, OP and PHASE. -/
theorem sequencerTurn_frame {s t : State} (h : sequencerTurn s = .next t) : EngineFrame s t := by
  cases hb : s.busy with
  | false =>
    rw [sequencerTurn_idle hb] at h
    cases h
    exact EngineFrame.refl s
  | true =>
    rw [sequencerTurn_busy hb] at h
    exact sequenceOf_frame h

/-- A command met while BUSY = 0 does nothing or is accepted, whatever its word (R270, R272). -/
theorem exec_idle_cases (i : Instr) {s : State} (hb : s.busy = false) :
    exec i s = .next s ∨ ∃ op, exec i s = .next (acceptCommand op s) := by
  cases i with
  | nop => exact .inl (by simp [exec, execNop, hb])
  | _ => exact .inr ⟨_, runCommand_idle hb⟩

theorem exec_idle_frame {i : Instr} {s t : State} (hb : s.busy = false) (h : exec i s = .next t) :
    EngineFrame s t := by
  obtain he | ⟨op, he⟩ := exec_idle_cases i hb
  · rw [he] at h
    cases h
    exact EngineFrame.refl s
  · rw [he] at h
    cases h
    exact acceptCommand_frame op s

/-! The fixed parameters (R10). -/

@[simp] theorem writeCtrl_params (v : Word) (s : State) : (writeCtrl v s).params = s.params := by
  unfold writeCtrl
  split
  · exact resetState_params s
  · rfl

theorem OnlyOperands.params_eq {s u : State} (h : OnlyOperands s u) : u.params = s.params := by
  unfold OnlyOperands at h
  rw [h]

theorem HostEffect.params_eq {s u : State} (h : HostEffect s u) : u.params = s.params := by
  obtain rfl | ⟨-, rfl⟩ | ⟨v, rfl⟩ | ⟨v, rfl⟩ | ⟨-, ho⟩ | ⟨-, a, bs, -, rfl⟩ := h
  · rfl
  · exact dropTransaction_params s
  · exact writeCtrl_params v s
  · exact writeStatus_params v s
  · exact ho.params_eq
  · rfl

theorem hostTurn_params {x : Txn} {s t : State} (h : hostTurn x s = .next t) : t.params = s.params := by
  unfold hostTurn at h
  split at h
  next u hu =>
    cases h
    obtain ⟨u', r, heff, rfl⟩ := busAccess_done hu
    rw [respond_params, heff.params_eq]
  next w u hu =>
    obtain ⟨hidle, -, rfl⟩ := busAccess_command hu
    exact (exec_idle_frame (s := respond .written s) hidle h).params_eq
  next => cases h

/-- Settles O43, by the event a step takes: a sequencer turn, a host transaction or a reset. -/
theorem instanceIsFixed : Obligations.InstanceIsFixed := by
  intro s t h
  unfold step at h
  split at h
  next => exact (sequencerTurn_frame h).params_eq
  next rest _ => exact (sequencerTurn_frame (s := { s with agenda := rest }) h).params_eq
  next x rest _ => exact hostTurn_params (s := { s with agenda := rest }) h
  next rest _ =>
    cases h
    exact resetState_params { s with agenda := rest }

end Sys2Proof.Machine
end

/-! Prover's lemmas, 20_memory.md: the host registers over the bus, and what one host transaction can do (R81 to R90). -/
section
namespace Sys2Proof.Machine

/-! The event a step consumes (R89). -/

theorem step_turn (s : State) : step (s.withEvent .turn) = sequencerTurn s := rfl

theorem step_bus (s : State) (x : Txn) : step (s.withEvent (.bus x)) = hostTurn x s := rfl

theorem step_hwReset (s : State) : step (s.withEvent .hwReset) = .next (resetState s) := rfl

/-! The map of the offset space (R81). -/

theorem offsetOf_eq_some {s : State} {addr off : Nat} :
    offsetOf s addr = some off ↔ addr = s.params.adeBase + off ∧ off < 0x10000 := by
  unfold offsetOf
  split
  · rw [Option.some.injEq]
    omega
  · simp only [reduceCtorEq, false_iff]
    omega

theorem hostRegAt_eq_some {off : Nat} {r : HostReg} : hostRegAt off = some r ↔ off = r.offset := by
  constructor
  · intro h
    have hoff := List.find?_some h
    simp only [beq_iff_eq] at hoff
    exact hoff.symm
  · rintro rfl
    cases r <;> rfl

theorem regionOf_offset (s : State) (r : HostReg) : regionOf s r.offset = .registers := by
  cases r <;> rfl

theorem legalAccess_offset (s : State) (r : HostReg) : legalAccess s r.offset 32 = true := by
  unfold legalAccess
  rw [regionOf_offset]
  cases r <;> rfl

/-- The register region admits 32-bit transactions only (R85). -/
theorem width_of_legalAccess_registers {s : State} {off width : Nat} (hl : legalAccess s off width = true)
    (hr : regionOf s off = .registers) : width = 32 := by
  unfold legalAccess at hl
  rw [hr] at hl
  simp only [Bool.and_eq_true, beq_iff_eq] at hl
  exact hl.2

theorem accessOffset_read {s : State} {off width : Nat} (hl : legalAccess s off width = true) :
    accessOffset s off width .read =
      .done (respond (.data (readOffset s off width).2) (readOffset s off width).1) := by
  rw [accessOffset, if_pos hl]

theorem accessOffset_write {s : State} {off width : Nat} (hl : legalAccess s off width = true) (v : Word) :
    accessOffset s off width (.write v) = respondOutcome .written (writeOffset s off width v) := by
  rw [accessOffset, if_pos hl]

theorem accessOffset_illegal {s : State} {off width : Nat} (hl : ¬ legalAccess s off width = true) (op : BusOp) :
    accessOffset s off width op = .busErr :=
  if_neg hl

theorem readOffset_window {s : State} {off : Nat} (hr : regionOf s off = .window) (width : Nat) :
    readOffset s off width =
      if s.busy then (dropTransaction s, 0#32)
      else (s, BitVec.ofNat 32 (loadLE (s.buf.readBytes (off - windowBase) (width / 8)))) := by
  rw [readOffset, hr]

theorem writeOffset_window {s : State} {off : Nat} (hr : regionOf s off = .window) (width : Nat) (v : Word) :
    writeOffset s off width v = .done (if s.busy then dropTransaction s
      else { s with buf := s.buf.writeBytes (off - windowBase) (storeLE (width / 8) v.toNat) }) := by
  rw [writeOffset, hr]
  cases s.busy <;> rfl

theorem readOffset_register {s : State} {off : Nat} {r : HostReg} (hr : regionOf s off = .registers)
    (hreg : hostRegAt off = some r) (width : Nat) : readOffset s off width = (s, readReg s r) := by
  rw [readOffset, hr, hreg]

theorem writeOffset_register {s : State} {off : Nat} {r : HostReg} (hr : regionOf s off = .registers)
    (hreg : hostRegAt off = some r) (width : Nat) (v : Word) : writeOffset s off width v = writeReg s r v := by
  rw [writeOffset, hr, hreg]

/-- An offset that is unmapped, or reserved in the register region (R53, R81). -/
def NothingAt (s : State) (off : Nat) : Prop :=
  regionOf s off = .unmapped ∨ (regionOf s off = .registers ∧ hostRegAt off = none)

theorem readOffset_nothing {s : State} {off : Nat} (h : NothingAt s off) (width : Nat) :
    readOffset s off width = (s, 0#32) := by
  obtain hr | ⟨hr, hnone⟩ := h
  · rw [readOffset, hr]
  · rw [readOffset, hr, hnone]

theorem writeOffset_nothing {s : State} {off : Nat} (h : NothingAt s off) (width : Nat) (v : Word) :
    writeOffset s off width v = .done s := by
  obtain hr | ⟨hr, hnone⟩ := h
  · rw [writeOffset, hr]
  · rw [writeOffset, hr, hnone]

theorem busAccess_regTxn (s : State) (r : HostReg) (op : BusOp) :
    busAccess s (regTxn s r op) = accessOffset s r.offset 32 op := by
  have hlt : r.offset < 0x10000 := by cases r <;> decide
  have hoff : offsetOf s (regTxn s r op).addr = some r.offset := offsetOf_eq_some.mpr ⟨rfl, hlt⟩
  unfold busAccess
  rw [hoff]
  rfl

/-! A transaction at a host register (R31 to R52). -/

theorem busAccess_readReg (s : State) (r : HostReg) :
    busAccess s (regTxn s r .read) = .done (respond (.data (readReg s r)) s) := by
  rw [busAccess_regTxn, accessOffset_read (legalAccess_offset s r),
    readOffset_register (regionOf_offset s r) (hostRegAt_eq_some.mpr rfl)]

theorem busAccess_writeReg (s : State) (r : HostReg) (v : Word) :
    busAccess s (regTxn s r (.write v)) = respondOutcome .written (writeReg s r v) := by
  rw [busAccess_regTxn, accessOffset_write (legalAccess_offset s r),
    writeOffset_register (regionOf_offset s r) (hostRegAt_eq_some.mpr rfl)]

/-- A bus read of a register answers its value and changes nothing, whatever BUSY. -/
theorem step_readReg (s : State) (r : HostReg) :
    step (s.withEvent (.bus (regTxn s r .read))) = .next { s with response := .data (readReg s r) } := by
  rw [step_bus, hostTurn, busAccess_readReg]
  rfl

theorem step_writeReg {s u : State} {r : HostReg} {v : Word} (h : writeReg s r v = .done u) :
    step (s.withEvent (.bus (regTxn s r (.write v)))) = .next (respond .written u) := by
  rw [step_bus, hostTurn, busAccess_writeReg, h]
  rfl

@[simp] theorem readReg_respond (x : BusResponse) (s : State) (r : HostReg) :
    readReg (respond x s) r = readReg s r := by
  cases r <;> rfl

/-! What a register write does, by the kind of the register. -/

/-- Every register is an operand register, a read-only one, CTRL, CMD or STATUS (R31 to R54). -/
theorem HostReg.kinds (r : HostReg) :
    r.isOperand = true ∨ r.isReadOnly = true ∨ r = .ctrl ∨ r = .cmd ∨ r = .status := by
  cases r <;> decide

theorem writeReg_readOnly {r : HostReg} (hr : r.isReadOnly = true) (s : State) (v : Word) :
    writeReg s r v = .done s := by
  cases r with
  | id | version | err | outLen | bufSize | famInfo0 | famInfo1 | primInfo => rfl
  | _ => cases hr

/-- A bus write of a read-only register changes nothing, whatever BUSY (R87). -/
theorem step_write_readOnly {r : HostReg} (hr : r.isReadOnly = true) (s : State) (v : Word) :
    step (s.withEvent (.bus (regTxn s r (.write v)))) = .next { s with response := .written } :=
  step_writeReg (writeReg_readOnly hr s v)

/-- `s` with the field of an operand register set to its bits of `v` (R36 to R46). -/
def setOperand (r : HostReg) (v : Word) (s : State) : State :=
  match r with
  | .family => { s with family := v.extractLsb' 0 8 }
  | .keyLen => { s with keyLen := v.extractLsb' 0 8 }
  | .nonceLen => { s with nonceLen := v.extractLsb' 0 8 }
  | .keyPtr => { s with keyPtr := v }
  | .noncePtr => { s with noncePtr := v }
  | .adPtr => { s with adPtr := v }
  | .adLen => { s with adLen := v }
  | .inPtr => { s with inPtr := v }
  | .inLen => { s with inLen := v }
  | .outPtr => { s with outPtr := v }
  | .primCfg => { s with psel := v.extractLsb' 0 8, rounds := v.extractLsb' 8 8, start := v.extractLsb' 16 8 }
  | _ => s

/-- A write of an operand register is dropped while BUSY = 1, and sets its field otherwise (R54, R88). -/
theorem writeReg_operand {r : HostReg} (hr : r.isOperand = true) (s : State) (v : Word) :
    writeReg s r v = .done (if s.busy then dropTransaction s else setOperand r v s) := by
  cases r with
  | family | keyLen | nonceLen | keyPtr | noncePtr | adPtr | adLen | inPtr | inLen | outPtr | primCfg => rfl
  | _ => cases hr

theorem setOperand_onlyOperands (r : HostReg) (v : Word) (s : State) : OnlyOperands s (setOperand r v s) := by
  cases r <;> rfl

theorem step_write_operand {r : HostReg} (hr : r.isOperand = true) {s : State} (hb : s.busy = false) (v : Word) :
    step (s.withEvent (.bus (regTxn s r (.write v)))) = .next (respond .written (setOperand r v s)) := by
  refine step_writeReg ?_
  rw [writeReg_operand hr, hb]
  rfl

/-! What one host transaction can do. -/

/-- What a host transaction that gets a response leaves (R85 to R90): nothing changed but by a transaction the busy rule
drops, a write of CTRL, STATUS or an operand register, a CMD write that runs its command, or a write of BUF. -/
inductive HostCase (s : State) (x : Txn) (t : State) : Prop
  | unchanged (r : BusResponse) (ht : t = respond r s)
  | dropped (r : BusResponse) (hb : s.busy = true) (ht : t = respond r (dropTransaction s))
  | ctrl (v : Word) (hx : x = regTxn s .ctrl (.write v)) (ht : t = respond .written (writeCtrl v s))
  | status (v : Word) (hx : x = regTxn s .status (.write v)) (ht : t = respond .written (writeStatus v s))
  | operand (r : HostReg) (v : Word) (hb : s.busy = false) (hr : r.isOperand = true)
      (hx : x = regTxn s r (.write v)) (ht : t = respond .written (setOperand r v s))
  | command (w : Word) (hb : s.busy = false) (hx : x = regTxn s .cmd (.write w))
      (ht : exec (decode w) (respond .written s) = .next t)
  | buf (m : Mem) (hb : s.busy = false) (ht : t = respond .written { s with buf := m })

/-- A write at a register's offset, by the kind of the register. -/
theorem HostCase.of_writeReg {s t : State} {r : HostReg} {v : Word}
    (h : hostTurn (regTxn s r (.write v)) s = .next t) : HostCase s (regTxn s r (.write v)) t := by
  rw [hostTurn, busAccess_writeReg] at h
  obtain hr | hr | rfl | rfl | rfl := r.kinds
  · rw [writeReg_operand hr] at h
    cases hb : s.busy <;> rw [hb] at h <;> cases h
    · exact .operand r v hb hr rfl rfl
    · exact .dropped _ hb rfl
  · rw [writeReg_readOnly hr] at h
    cases h
    exact .unchanged _ rfl
  · cases h
    exact .ctrl v rfl rfl
  · cases hb : s.busy <;> simp only [writeReg, hb, if_true, Bool.false_eq_true, if_false] at h
    · exact .command v hb rfl h
    · cases h
      exact .dropped _ hb rfl
  · cases h
    exact .status v rfl rfl

theorem busAccess_of_offset {s : State} {x : Txn} {off : Nat} (hoff : offsetOf s x.addr = some off) :
    busAccess s x = accessOffset s off x.width x.op := by
  rw [busAccess, hoff]

/-- A legal transaction in the BUF window is dropped while BUSY = 1; otherwise a read answers and a write sets BUF. -/
theorem HostCase.of_window {s t : State} {x : Txn} {off : Nat} (hoff : offsetOf s x.addr = some off)
    (hl : legalAccess s off x.width = true) (hr : regionOf s off = .window) (h : hostTurn x s = .next t) :
    HostCase s x t := by
  rw [hostTurn, busAccess_of_offset hoff] at h
  cases hop : x.op with
  | read =>
    rw [hop, accessOffset_read hl, readOffset_window hr] at h
    by_cases hb : s.busy = true
    · rw [if_pos hb] at h
      cases h
      exact .dropped _ hb rfl
    · rw [if_neg hb] at h
      cases h
      exact .unchanged _ rfl
  | write v =>
    rw [hop, accessOffset_write hl, writeOffset_window hr] at h
    by_cases hb : s.busy = true
    · rw [if_pos hb] at h
      cases h
      exact .dropped _ hb rfl
    · rw [if_neg hb] at h
      cases h
      exact .buf _ (Bool.eq_false_of_not_eq_true hb) rfl

/-- A legal transaction that meets no register and no byte of BUF reads 0 or is ignored (R53, R87). -/
theorem HostCase.of_nothing {s t : State} {x : Txn} {off : Nat} (hoff : offsetOf s x.addr = some off)
    (hl : legalAccess s off x.width = true) (hn : NothingAt s off) (h : hostTurn x s = .next t) : HostCase s x t := by
  rw [hostTurn, busAccess_of_offset hoff] at h
  cases hop : x.op with
  | read =>
    rw [hop, accessOffset_read hl, readOffset_nothing hn] at h
    cases h
    exact .unchanged _ rfl
  | write v =>
    rw [hop, accessOffset_write hl, writeOffset_nothing hn] at h
    cases h
    exact .unchanged _ rfl

/-- A legal transaction at a register's offset is the 32-bit one of that register (R85). -/
theorem eq_regTxn {s : State} {x : Txn} {r : HostReg} (hoff : offsetOf s x.addr = some r.offset)
    (hl : legalAccess s r.offset x.width = true) : x = regTxn s r x.op := by
  obtain ⟨op, width, addr⟩ := x
  have haddr : addr = s.params.adeBase + r.offset := (offsetOf_eq_some.mp hoff).1
  have hwidth : width = 32 := width_of_legalAccess_registers hl (regionOf_offset s r)
  rw [haddr, hwidth]
  rfl

theorem HostCase.of_register {s t : State} {x : Txn} {r : HostReg} (hx : x = regTxn s r x.op)
    (h : hostTurn x s = .next t) : HostCase s x t := by
  cases hop : x.op with
  | read =>
    rw [hx, hop, hostTurn, busAccess_readReg] at h
    cases h
    exact .unchanged _ rfl
  | write v =>
    rw [hop] at hx
    rw [hx] at h ⊢
    exact .of_writeReg h

/-- Every host transaction that gets a response is one of `HostCase`, by the region and the register it reaches. -/
theorem hostTurn_cases {s t : State} {x : Txn} (h : hostTurn x s = .next t) : HostCase s x t := by
  cases hoff : offsetOf s x.addr with
  | none =>
    rw [hostTurn, busAccess, hoff] at h
    cases h
    exact .unchanged _ rfl
  | some off =>
    by_cases hl : legalAccess s off x.width = true
    · cases hr : regionOf s off with
      | unmapped => exact .of_nothing hoff hl (.inl hr) h
      | window => exact .of_window hoff hl hr h
      | registers =>
        cases hreg : hostRegAt off with
        | none => exact .of_nothing hoff hl (.inr ⟨hr, hreg⟩) h
        | some r =>
          obtain rfl := hostRegAt_eq_some.mp hreg
          exact .of_register (eq_regTxn hoff hl) h
    · rw [hostTurn, busAccess_of_offset hoff, accessOffset_illegal hl] at h
      cases h

end Sys2Proof.Machine
end

/-! Prover's lemmas, 10_state.md: the host registers (R31 to R52) and the reset values (R76). -/
section
namespace Sys2Proof.Machine

/-! The bits of a packed word. -/

theorem extractLsb'_ofNat {k w : Nat} (h : k + w ≤ 32) (n : Nat) :
    (BitVec.ofNat 32 n).extractLsb' k w = BitVec.ofNat w (n / 2 ^ k) := by
  apply BitVec.eq_of_getLsbD_eq
  intro i hi
  have hk : k + i < 32 := by omega
  rw [BitVec.getLsbD_extractLsb', BitVec.getLsbD_ofNat, BitVec.getLsbD_ofNat, Nat.testBit_div_two_pow, Nat.add_comm i k]
  simp only [hi, hk, decide_true, Bool.true_and]

/-- A bit of a packed word is the flag that the sum holds there. -/
theorem getLsbD_ofNat_eq {k n : Nat} {b : Bool} (h : k < 32) (hb : n / 2 ^ k % 2 = b.toNat) :
    (BitVec.ofNat 32 n).getLsbD k = b := by
  rw [BitVec.getLsbD_ofNat, Nat.testBit_eq_decide_div_mod_eq, hb]
  cases b <;> simp [h]

/-- A field of a packed word is the value that the sum holds there. -/
theorem toNat_extractLsb'_ofNat {k w n m : Nat} (h : k + w ≤ 32) (hm : n / 2 ^ k % 2 ^ w = m) :
    ((BitVec.ofNat 32 n).extractLsb' k w).toNat = m := by
  rw [extractLsb'_ofNat h, BitVec.toNat_ofNat, hm]

theorem extractLsb'_ofNat_eq {k w n m : Nat} (h : k + w ≤ 32) (hm : n / 2 ^ k % 2 ^ w = m % 2 ^ w) :
    (BitVec.ofNat 32 n).extractLsb' k w = BitVec.ofNat w m :=
  BitVec.eq_of_toNat_eq (by rw [toNat_extractLsb'_ofNat h hm, BitVec.toNat_ofNat])

/-! ID, VERSION and BUFSIZE (R31, R32, R49). -/

/-- Settles O34: each of the three is a read-only register, and its value is the constant. -/
theorem constantRegisters : Obligations.ConstantRegisters := by
  intro s v p hp
  simp only [List.mem_cons, List.not_mem_nil, or_false] at hp
  obtain rfl | rfl | rfl := hp
  · exact ⟨step_readReg s .id, step_write_readOnly rfl s v⟩
  · exact ⟨step_readReg s .version, step_write_readOnly rfl s v⟩
  · exact ⟨step_readReg s .bufSize, step_write_readOnly rfl s v⟩

/-! ERR, OUT_LEN and CMD (R34, R47, R48). -/

/-- Settles O60: three register reads; the value of ERR is by the cases of DETAIL. -/
theorem outcomeRegisters : Obligations.OutcomeRegisters := by
  intro s
  refine ⟨?_, step_readReg s .outLen, step_readReg s .cmd⟩
  have herr := step_readReg s .err
  cases hd : s.detail <;> rw [readReg, errWord, hd] at herr <;> exact herr

/-! CTRL (R33). -/

theorem ctrlWord_eq (s : State) : ctrlWord s = if s.ie then 0x00000001#32 else 0x00000000#32 := by
  unfold ctrlWord
  cases s.ie <;> rfl

theorem writeCtrl_srst {v : Word} (h : v.getLsbD 1 = true) (s : State) : writeCtrl v s = resetState s := if_pos h

theorem writeCtrl_no_srst {v : Word} (h : v.getLsbD 1 = false) (s : State) :
    writeCtrl v s = { s with ie := v.getLsbD 0 } := by
  rw [writeCtrl, h]
  rfl

/-- A reset leaves the reset column of R76, whatever the host reads back from it. -/
theorem atReset_respond_resetState (r : BusResponse) (s : State) : AtReset s (respond r (resetState s)) := by
  have hzero : InternalsZero (respond r (resetState s)) := ⟨⟨rfl, rfl, rfl, rfl, rfl, rfl, rfl, rfl, rfl⟩, rfl⟩
  exact ⟨rfl, rfl, rfl, rfl, rfl, rfl, rfl, rfl, rfl, rfl, rfl, rfl, rfl, rfl, rfl, rfl, rfl, rfl, rfl, rfl, rfl, rfl,
    hzero, rfl, rfl, rfl⟩

/-- Settles O37, by SRST, bit 1 of the value. -/
theorem ctrlRegister : Obligations.CtrlRegister := by
  intro s v
  refine ⟨?_, fun hv => ?_, fun hv => ?_, rfl, rfl⟩
  · rw [step_readReg, readReg, ctrlWord_eq]
  · have hw : writeReg s .ctrl v = .done { s with ie := v.getLsbD 0 } := congrArg _ (writeCtrl_no_srst hv s)
    exact step_writeReg hw
  · have hw : writeReg s .ctrl v = .done (resetState s) := congrArg _ (writeCtrl_srst hv s)
    exact ⟨_, step_writeReg hw, atReset_respond_resetState .written s⟩

/-! STATUS (R35). -/

theorem Result.code_lt (r : Result) : r.code < 2 ^ 2 := by cases r <;> decide

theorem Phase.code_lt (p : Phase) : p.code < 2 ^ 4 := by cases p <;> decide

/-- Each field of STATUS is where R35 puts it. -/
theorem statusWord_fields (s : State) :
    (statusWord s).getLsbD 0 = s.busy ∧ (statusWord s).getLsbD 1 = s.done ∧
    (statusWord s).extractLsb' 2 2 = BitVec.ofNat 2 s.result.code ∧
    (statusWord s).extractLsb' 4 4 = BitVec.ofNat 4 s.phase.code ∧
    (statusWord s).getLsbD 8 = s.hostErr ∧ (statusWord s).extractLsb' 9 23 = 0#23 := by
  have hresult := s.result.code_lt
  have hphase := s.phase.code_lt
  have hbusy := s.busy.toNat_le
  have hdone := s.done.toNat_le
  have hhostErr := s.hostErr.toNat_le
  unfold statusWord
  refine ⟨getLsbD_ofNat_eq ?_ ?_, getLsbD_ofNat_eq ?_ ?_, extractLsb'_ofNat_eq ?_ ?_, extractLsb'_ofNat_eq ?_ ?_,
    getLsbD_ofNat_eq ?_ ?_, extractLsb'_ofNat_eq ?_ ?_⟩ <;> omega

theorem writeStatus_eq (v : Word) (s : State) :
    writeStatus v s = { s with
      done := if v.getLsbD 1 then false else s.done
      hostErr := if v.getLsbD 8 then false else s.hostErr } := by
  unfold writeStatus
  cases v.getLsbD 1 <;> cases v.getLsbD 8 <;> simp

/-- Settles O38: the fields of the word, with the codes of RESULT and PHASE by their cases. -/
theorem statusRegister : Obligations.StatusRegister := by
  intro s v
  obtain ⟨hbusy, hdone, hresult, hphase, hhostErr, hrest⟩ := statusWord_fields s
  refine ⟨⟨statusWord s, step_readReg s .status, hbusy, hdone, ?_, ?_, hhostErr, hrest⟩, ?_⟩
  · rw [hresult]
    cases s.result <;> rfl
  · rw [hphase]
    cases s.phase <;> rfl
  · have hw : writeReg s .status v = .done (writeStatus v s) := rfl
    rw [step_writeReg hw, writeStatus_eq]
    rfl

/-! FAMINFO0, FAMINFO1 and PRIMINFO (R50, R51, R52). -/

/-- The ids of a well-formed profile ROM are distinct, so FAMILY selects the one profile of its id (R72). -/
theorem profileOf_of_selects {s : State} {P : Profile} (hp : s.params.wf = true) (h : Selects s P) :
    profileOf s = some P := by
  simp only [Params.wf, Bool.and_eq_true, decide_eq_true_eq] at hp
  obtain ⟨⟨⟨⟨⟨⟨-, hnodup⟩, -⟩, -⟩, -⟩, -⟩, -⟩ := hp
  obtain ⟨hmem, hid⟩ := h
  cases hf : profileOf s with
  | none => exact absurd hid (by simpa using List.find?_eq_none.mp hf P hmem)
  | some Q =>
    obtain ⟨hQ, hQid⟩ := lookupProfile_mem hf
    exact congrArg some (List.inj_on_of_nodup_map hnodup hQ hmem (hQid.trans hid.symm))

theorem primOf_of_selects {s : State} {D : PrimDesc} (hp : s.params.wf = true) (h : SelectsPrim s D) :
    primOf s = some D := by
  simp only [Params.wf, Bool.and_eq_true, decide_eq_true_eq] at hp
  obtain ⟨⟨⟨⟨⟨⟨-, -⟩, hnodup⟩, -⟩, -⟩, -⟩, -⟩ := hp
  obtain ⟨hmem, hid⟩ := h
  cases hf : primOf s with
  | none => exact absurd hid (by simpa using List.find?_eq_none.mp hf D hmem)
  | some E =>
    obtain ⟨hE, hEid⟩ := lookupPrim_mem hf
    exact congrArg some (List.inj_on_of_nodup_map hnodup hE hmem (hEid.trans hid.symm))

theorem profileOf_eq_none {s : State} (h : ∀ P ∈ s.params.families, P.id ≠ s.family) : profileOf s = none :=
  List.find?_eq_none.mpr (by simpa using h)

theorem primOf_eq_none {s : State} (h : ∀ D ∈ s.params.prims, D.id ≠ s.psel) : primOf s = none :=
  List.find?_eq_none.mpr (by simpa using h)

/-- No profile has the id 0, the reset value of FAMILY (R116). -/
theorem profile_id_ne_zero {p : Params} (hp : p.wf = true) {P : Profile} (h : P ∈ p.families) : P.id ≠ 0x00#8 := by
  have hwf := profile_wf_of_params hp h
  simp only [Profile.wf, Bool.and_eq_true, decide_eq_true_eq] at hwf
  obtain ⟨⟨⟨⟨⟨hpos, -⟩, -⟩, -⟩, -⟩, -⟩ := hwf
  intro h0
  rw [h0] at hpos
  exact absurd hpos (by decide)

/-- No descriptor has the id 0, the reset value of PSEL (R117). -/
theorem prim_id_ne_zero {p : Params} (hp : p.wf = true) {D : PrimDesc} (h : D ∈ p.prims) : D.id ≠ 0x00#8 := by
  have hwf := prim_wf_of_params hp h
  simp only [PrimDesc.wf, Bool.and_eq_true, decide_eq_true_eq] at hwf
  obtain ⟨⟨⟨⟨⟨hid, -⟩, -⟩, -⟩, -⟩, -⟩ := hwf
  intro h0
  rw [h0] at hid
  exact absurd hid (by decide)

theorem famInfo_none {s : State} (h : profileOf s = none) :
    readReg s .famInfo0 = 0#32 ∧ readReg s .famInfo1 = 0#32 := by
  constructor
  · rw [readReg, famInfo0Word, h]
  · rw [readReg, famInfo1Word, h]

theorem primInfo_none {s : State} (h : primOf s = none) : readReg s .primInfo = 0#32 := by
  rw [readReg, primInfoWord, h]

/-- Each length of the selected profile fits its byte of FAMINFO0, bit 31 of which is IMPL (R50). -/
theorem famInfo0_fields {s : State} {P : Profile} (hp : s.params.wf = true) (h : Selects s P) :
    ((readReg s .famInfo0).extractLsb' 0 8).toNat = P.keyLen ∧
    ((readReg s .famInfo0).extractLsb' 8 8).toNat = P.nonceLen ∧
    ((readReg s .famInfo0).extractLsb' 16 8).toNat = P.tagLen ∧
    (readReg s .famInfo0).extractLsb' 24 8 = 0x80#8 := by
  obtain ⟨-, -, -, -, -, -, -, hkey, -, hnonce, -, htag⟩ := Profile.wf_ranges (profile_wf_of_params hp h.1)
  rw [readReg, famInfo0Word, profileOf_of_selects hp h]
  refine ⟨toNat_extractLsb'_ofNat ?_ ?_, toNat_extractLsb'_ofNat ?_ ?_, toNat_extractLsb'_ofNat ?_ ?_,
    extractLsb'_ofNat_eq ?_ ?_⟩ <;> omega

/-- Each unit of the selected profile fits its byte of FAMINFO1 (R51). -/
theorem famInfo1_fields {s : State} {P : Profile} (hp : s.params.wf = true) (h : Selects s P) :
    ((readReg s .famInfo1).extractLsb' 0 8).toNat = P.unitAd ∧
    ((readReg s .famInfo1).extractLsb' 8 8).toNat = P.unitMsg ∧
    (readReg s .famInfo1).extractLsb' 16 16 = 0#16 := by
  obtain ⟨-, had, -, hmsg, -⟩ := Profile.wf_ranges (profile_wf_of_params hp h.1)
  rw [readReg, famInfo1Word, profileOf_of_selects hp h]
  refine ⟨toNat_extractLsb'_ofNat ?_ ?_, toNat_extractLsb'_ofNat ?_ ?_, extractLsb'_ofNat_eq ?_ ?_⟩ <;> omega

/-- Each size of the selected descriptor fits its byte of PRIMINFO, and the flags stand above them (R52). -/
theorem primInfo_fields {s : State} {D : PrimDesc} (hp : s.params.wf = true) (h : SelectsPrim s D) :
    ((readReg s .primInfo).extractLsb' 0 8).toNat = D.blockBytes ∧
    ((readReg s .primInfo).extractLsb' 8 8).toNat = D.keyBytes ∧
    ((readReg s .primInfo).extractLsb' 16 8).toNat = D.maxRounds ∧
    (readReg s .primInfo).getLsbD 24 = true ∧
    (readReg s .primInfo).getLsbD 25 = D.hasDec ∧
    (readReg s .primInfo).getLsbD 26 = (D.kind == .permutation) ∧
    (readReg s .primInfo).extractLsb' 27 5 = 0#5 := by
  obtain ⟨-, hblock, hkey, -, hrounds, -⟩ := PrimDesc.wf_ranges (prim_wf_of_params hp h.1)
  have hone : true.toNat = 1 := rfl
  have hdec := D.hasDec.toNat_le
  have hkind := (D.kind == .permutation).toNat_le
  rw [readReg, primInfoWord, primOf_of_selects hp h]
  refine ⟨toNat_extractLsb'_ofNat ?_ ?_, toNat_extractLsb'_ofNat ?_ ?_, toNat_extractLsb'_ofNat ?_ ?_,
    getLsbD_ofNat_eq ?_ ?_, getLsbD_ofNat_eq ?_ ?_, getLsbD_ofNat_eq ?_ ?_, extractLsb'_ofNat_eq ?_ ?_⟩ <;>
    omega

/-- Settles O35: the registers are read-only, and their fields are those of the record the id selects. -/
theorem infoRegisters : Obligations.InfoRegisters := by
  intro s hp
  refine ⟨fun r hr v => ⟨step_readReg s r, step_write_readOnly ?_ s v⟩, fun P hP => ?_,
    fun hnone => famInfo_none (profileOf_eq_none hnone), fun D hD => ?_,
    fun hnone => primInfo_none (primOf_eq_none hnone), fun h0 => ?_, fun h0 => ?_⟩
  · obtain rfl | rfl | rfl := hr <;> rfl
  · obtain ⟨hkey, hnonce, htag, himpl⟩ := famInfo0_fields hp hP
    exact ⟨hkey, hnonce, htag, himpl, famInfo1_fields hp hP⟩
  · obtain ⟨hblock, hkey, hrounds, himpl, hdec, hkind, hrest⟩ := primInfo_fields hp hD
    exact ⟨hblock, hkey, hrounds, himpl, hdec, by rw [hkind, beq_iff_eq], hrest⟩
  · exact famInfo_none (profileOf_eq_none fun P hP => by rw [h0]; exact profile_id_ne_zero hp hP)
  · exact primInfo_none (primOf_eq_none fun D hD => by rw [h0]; exact prim_id_ne_zero hp hD)

/-! The reset values (R76). -/

theorem step_reset : step State.reset = .next (resetClear State.reset) := rfl

theorem atReset_reset : AtReset State.reset State.reset := by
  have hzero : InternalsZero State.reset := ⟨⟨rfl, rfl, rfl, rfl, rfl, rfl, rfl, rfl, rfl⟩, rfl⟩
  exact ⟨rfl, rfl, rfl, rfl, rfl, rfl, rfl, rfl, rfl, rfl, rfl, rfl, rfl, rfl, rfl, rfl, rfl, rfl, rfl, rfl, rfl, rfl,
    hzero, rfl, rfl, rfl⟩

/-- Settles O41: both columns are read off register by register, the second in the state the buffer clear leaves. -/
theorem resetValues : Obligations.ResetValues := by
  have hzero : InternalsZero (resetClear State.reset) := ⟨⟨rfl, rfl, rfl, rfl, rfl, rfl, rfl, rfl, rfl⟩, rfl⟩
  refine ⟨atReset_reset, fun r => ?_, _, step_reset, hzero, rfl, fun a => rfl, fun r => ?_⟩
  · cases r <;> rfl
  · cases r <;> rfl

/-- Settles O46: a field at a time; BUSY = 1, PHASE = BUFCLR and OP = 0 rule the other phases out. -/
theorem invariantAtReset : Obligations.InvariantAtReset where
  params := by decide
  bufWf := rfl
  bufIn := rfl
  widths := ⟨List.length_replicate, List.length_replicate, List.length_replicate, List.length_replicate,
    List.length_replicate⟩
  idle := fun h => nomatch h
  running := fun _ => ⟨rfl, rfl⟩
  outcome := rfl
  pending := fun _ _ => ⟨rfl, rfl, rfl⟩
  fresh := fun _ _ => ⟨rfl, rfl, rfl, rfl, rfl, rfl, rfl, rfl, rfl⟩
  aead := fun _ _ _ h => nomatch h
  prim := fun _ _ _ h => nomatch h

end Sys2Proof.Machine
end

/-! Prover's lemmas, 10_state.md: the operand registers (R36 to R46, R54), and what each kind of step leaves of the host's
state (R35, R71). -/
section
namespace Sys2Proof.Machine

/-! The implemented bits of an operand register. -/

theorem getLsbD_and_low (v : Word) {k i : Nat} (hi : i < 32) :
    (v &&& BitVec.ofNat 32 (2 ^ k - 1)).getLsbD i = (decide (i < k) && v.getLsbD i) := by
  rw [BitVec.getLsbD_and, BitVec.getLsbD_ofNat, Nat.testBit_two_pow_sub_one]
  simp only [hi, decide_true, Bool.true_and, Bool.and_comm]

theorem setWidth_extractLsb'_byte (v : Word) : (v.extractLsb' 0 8).setWidth 32 = v &&& 0x000000FF#32 := by
  apply BitVec.eq_of_getLsbD_eq
  intro i hi
  have hand := getLsbD_and_low v (k := 8) hi
  rw [BitVec.getLsbD_setWidth, BitVec.getLsbD_extractLsb', Nat.zero_add, decide_eq_true hi, Bool.true_and]
  exact hand.symm

theorem append_extractLsb'_bytes (v : Word) :
    0#8 ++ v.extractLsb' 16 8 ++ v.extractLsb' 8 8 ++ v.extractLsb' 0 8 = v &&& 0x00FFFFFF#32 := by
  apply BitVec.eq_of_getLsbD_eq
  intro i hi
  have hand := getLsbD_and_low v (k := 24) hi
  refine Eq.trans ?_ hand.symm
  simp only [BitVec.getLsbD_append, BitVec.getLsbD_extractLsb', BitVec.getLsbD_zero]
  by_cases h8 : i < 8
  · simp [h8, show i < 24 by omega]
  by_cases h16 : i < 16
  · simp [h8, show i - 8 < 8 by omega, show i < 24 by omega, show 8 + (i - 8) = i by omega]
  by_cases h24 : i < 24
  · simp [h8, h24, show ¬ i - 8 < 8 by omega, show i - 8 - 8 < 8 by omega, show 16 + (i - 8 - 8) = i by omega]
  · simp [h8, h24, show ¬ i - 8 < 8 by omega, show ¬ i - 8 - 8 < 8 by omega]

/-! A read after a write of an operand register. -/

theorem readReg_setOperand_same {r : HostReg} (hr : r.isOperand = true) (v : Word) (s : State) :
    readReg (setOperand r v s) r = v &&& r.implemented := by
  have hall : v &&& 0xFFFFFFFF#32 = v := BitVec.and_allOnes
  cases r with
  | family | keyLen | nonceLen => exact setWidth_extractLsb'_byte v
  | keyPtr | noncePtr | adPtr | adLen | inPtr | inLen | outPtr => exact hall.symm
  | primCfg => exact append_extractLsb'_bytes v
  | _ => cases hr

/-- The writes of the other registers do not touch the fields a register reads. -/
theorem readReg_setOperand_other {r r' : HostReg} (hr' : r'.isOperand = true) (hne : r' ≠ r) (v : Word) (s : State) :
    readReg (setOperand r v s) r' = readReg s r' := by
  cases r' with
  | family | keyLen | nonceLen | keyPtr | noncePtr | adPtr | adLen | inPtr | inLen | outPtr | primCfg =>
    cases r <;> first
    | rfl
    | exact absurd rfl hne
  | _ => cases hr'

theorem OnlyOperands.onlyOperandsChanged {s u : State} (h : OnlyOperands s u) :
    OnlyOperandsChanged s (respond .written u) :=
  congrArg (respond .written) h

@[simp] theorem setOperand_hostErr (r : HostReg) (v : Word) (s : State) : (setOperand r v s).hostErr = s.hostErr := by
  cases r <;> rfl

/-! What the sequencer leaves of the host's state (R54, R71). -/

theorem EngineFrame.sameOperands {s t : State} (h : EngineFrame s t) : SameOperands s t := by
  unfold EngineFrame at h
  rw [h]
  exact ⟨rfl, rfl, rfl, rfl, rfl, rfl, rfl, rfl, rfl, rfl, rfl, rfl, rfl⟩

theorem EngineFrame.ie_eq {s t : State} (h : EngineFrame s t) : t.ie = s.ie := by
  unfold EngineFrame at h
  rw [h]

theorem EngineFrame.hostErr_eq {s t : State} (h : EngineFrame s t) : t.hostErr = s.hostErr := by
  unfold EngineFrame at h
  rw [h]

theorem EngineFrame.response_eq {s t : State} (h : EngineFrame s t) : t.response = s.response := by
  unfold EngineFrame at h
  rw [h]

theorem EngineFrame.agenda_eq {s t : State} (h : EngineFrame s t) : t.agenda = s.agenda := by
  unfold EngineFrame at h
  rw [h]

/-- Settles O44: the sequencer's frame, field by field. -/
theorem sequencerKeepsHostState : Obligations.SequencerKeepsHostState := by
  intro s t h
  have hframe := sequencerTurn_frame h
  exact ⟨hframe.sameOperands, hframe.ie_eq, hframe.hostErr_eq, hframe.params_eq, hframe.response_eq, hframe.agenda_eq⟩

/-- What a command does while BUSY = 0 depends on the command only: nothing, or its acceptance (R270, R272). -/
theorem exec_idle_uniform (i : Instr) :
    (∀ {s : State}, s.busy = false → exec i s = .next s) ∨
    ∃ op, ∀ {s : State}, s.busy = false → exec i s = .next (acceptCommand op s) := by
  cases i with
  | nop => exact .inl fun hb => by simp [exec, execNop, hb]
  | _ => exact .inr ⟨_, fun hb => runCommand_idle hb⟩

/-- The command of a CMD write met while BUSY = 0 writes only what the sequencer may write. -/
theorem command_frame {s t : State} {i : Instr} (hb : s.busy = false) (h : exec i (respond .written s) = .next t) :
    EngineFrame (respond .written s) t :=
  exec_idle_frame (s := respond .written s) hb h

/-! HOSTERR (R35). -/

/-- A host transaction keeps HOSTERR, raises it because BUSY = 1, or clears it as a soft reset or a STATUS write of
bit 8 (R88, R315). -/
theorem HostCase.hostErr_cases {s t : State} {x : Txn} (h : HostCase s x t) :
    t.hostErr = s.hostErr ∨ (t.hostErr = true ∧ s.busy = true) ∨
    (t.hostErr = false ∧ ∃ v : Word, v.getLsbD 1 = true ∧ x = regTxn s .ctrl (.write v)) ∨
    (t.hostErr = false ∧ ∃ v : Word, v.getLsbD 8 = true ∧ x = regTxn s .status (.write v)) := by
  cases h with
  | unchanged r ht => exact .inl (by rw [ht, respond_hostErr])
  | dropped r hb ht => exact .inr (.inl ⟨by rw [ht, respond_hostErr, dropTransaction_hostErr], hb⟩)
  | ctrl v hx ht =>
    cases hv : v.getLsbD 1 with
    | true => exact .inr (.inr (.inl ⟨by rw [ht, respond_hostErr, writeCtrl_srst hv, resetState_hostErr], v, hv, hx⟩))
    | false => exact .inl (by rw [ht, respond_hostErr, writeCtrl_no_srst hv])
  | status v hx ht =>
    rw [ht, respond_hostErr, writeStatus_hostErr]
    cases hv : v.getLsbD 8 with
    | true => exact .inr (.inr (.inr ⟨Bool.and_false _, v, hv, hx⟩))
    | false => exact .inl (Bool.and_true _)
  | operand r v _ _ _ ht => exact .inl (by rw [ht, respond_hostErr, setOperand_hostErr])
  | command w hb _ ht => exact .inl (command_frame hb ht).hostErr_eq
  | buf m _ ht => exact .inl (by rw [ht, respond_hostErr])

/-- Settles O40, by the event: the sequencer keeps HOSTERR, a reset clears it, a host transaction is one of its cases. -/
theorem hostErrIsSticky : Obligations.HostErrIsSticky := by
  intro s t e h
  cases e with
  | turn =>
    have hkept : t.hostErr = s.hostErr := (sequencerTurn_frame h).hostErr_eq
    rw [hkept]
    exact ⟨fun hs ht => absurd (hs.symm.trans ht) (by decide), fun hs ht => absurd (hs.symm.trans ht) (by decide)⟩
  | hwReset =>
    cases h
    exact ⟨fun _ ht => (nomatch ht), fun _ _ => .inl rfl⟩
  | bus x =>
    rw [step_bus] at h
    obtain hkept | ⟨hup, hb⟩ | ⟨hdown, v, hv, rfl⟩ | ⟨hdown, v, hv, rfl⟩ := (hostTurn_cases h).hostErr_cases
    · rw [hkept]
      exact ⟨fun hs ht => absurd (hs.symm.trans ht) (by decide), fun hs ht => absurd (hs.symm.trans ht) (by decide)⟩
    · exact ⟨fun _ _ => ⟨hb, x, rfl⟩, fun _ ht => absurd (hup.symm.trans ht) (by decide)⟩
    · exact ⟨fun _ ht => absurd (hdown.symm.trans ht) (by decide), fun _ _ => .inr (.inl ⟨v, hv, rfl⟩)⟩
    · exact ⟨fun _ ht => absurd (hdown.symm.trans ht) (by decide), fun _ _ => .inr (.inr ⟨v, hv, rfl⟩)⟩

/-! The operand registers (R36 to R46, R54). -/

theorem SameOperands.refl (s : State) : SameOperands s s :=
  ⟨rfl, rfl, rfl, rfl, rfl, rfl, rfl, rfl, rfl, rfl, rfl, rfl, rfl⟩

/-- A host transaction that changes an operand register is a soft reset or a write of one while BUSY = 0. -/
theorem operands_changed_by_host {s t : State} {x : Txn} (h : HostCase s x t) (hne : ¬ SameOperands s t) :
    (∃ v : Word, v.getLsbD 1 = true ∧ x = regTxn s .ctrl (.write v)) ∨
    (s.busy = false ∧ ∃ (r : HostReg) (v : Word), r.isOperand = true ∧ x = regTxn s r (.write v)) := by
  have hsame : SameOperands s s := SameOperands.refl s
  cases h with
  | operand r v hb hr hx _ => exact .inr ⟨hb, r, v, hr, hx⟩
  | ctrl v hx he =>
    cases hv : v.getLsbD 1 with
    | true => exact .inl ⟨v, hv, hx⟩
    | false =>
      rw [writeCtrl_no_srst hv] at he
      rw [he] at hne
      exact absurd hsame hne
  | status v _ he => rw [he] at hne; exact absurd hsame hne
  | dropped r _ he => rw [he] at hne; exact absurd hsame hne
  | command w hb _ he => exact absurd (command_frame hb he).sameOperands hne
  | unchanged r he => rw [he] at hne; exact absurd hsame hne
  | buf m _ he => rw [he] at hne; exact absurd hsame hne

/-- A write while BUSY = 0 sets the implemented bits of its register, which read back, and no other operand register. -/
theorem operand_write_reads_back {r : HostReg} (hr : r.isOperand = true) {s : State} (hb : s.busy = false) (v : Word) :
    ∃ t : State, step (s.withEvent (.bus (regTxn s r (.write v)))) = .next t ∧
      step (t.withEvent (.bus (regTxn t r .read))) = .next { t with response := .data (v &&& r.implemented) } ∧
      readReg t r = v &&& r.implemented ∧
      (∀ r' : HostReg, r'.isOperand = true → r' ≠ r → readReg t r' = readReg s r') ∧ OnlyOperandsChanged s t := by
  have hread : readReg (respond .written (setOperand r v s)) r = v &&& r.implemented := by
    rw [readReg_respond, readReg_setOperand_same hr]
  refine ⟨_, step_write_operand hr hb v, ?_, hread, fun r' hr' hne => ?_,
    (setOperand_onlyOperands r v s).onlyOperandsChanged⟩
  · rw [step_readReg, hread]
  · rw [readReg_respond, readReg_setOperand_other hr' hne]

/-- Settles O36: the writes and the reads offset by offset, then what reads back, and who else writes an operand. -/
theorem operandRegisters : Obligations.OperandRegisters := by
  refine ⟨fun s v hb => ?_, fun s => ?_, fun s v r hb hr => operand_write_reads_back hr hb v,
    fun s t h => (sequencerTurn_frame h).sameOperands, fun s t e h hne => ?_⟩
  · exact ⟨step_write_operand (r := .family) rfl hb v, step_write_operand (r := .keyLen) rfl hb v,
      step_write_operand (r := .nonceLen) rfl hb v, step_write_operand (r := .keyPtr) rfl hb v,
      step_write_operand (r := .noncePtr) rfl hb v, step_write_operand (r := .adPtr) rfl hb v,
      step_write_operand (r := .adLen) rfl hb v, step_write_operand (r := .inPtr) rfl hb v,
      step_write_operand (r := .inLen) rfl hb v, step_write_operand (r := .outPtr) rfl hb v,
      step_write_operand (r := .primCfg) rfl hb v⟩
  · exact ⟨step_readReg s .family, step_readReg s .keyLen, step_readReg s .nonceLen, step_readReg s .keyPtr,
      step_readReg s .noncePtr, step_readReg s .adPtr, step_readReg s .adLen, step_readReg s .inPtr,
      step_readReg s .inLen, step_readReg s .outPtr, step_readReg s .primCfg⟩
  · cases e with
    | turn => exact absurd (sequencerTurn_frame h).sameOperands hne
    | hwReset => exact .inl rfl
    | bus x =>
      rw [step_bus] at h
      obtain ⟨v, hv, rfl⟩ | ⟨hb, r, v, hr, rfl⟩ := operands_changed_by_host (hostTurn_cases h) hne
      · exact .inr (.inl ⟨v, hv, rfl⟩)
      · exact .inr (.inr ⟨hb, r, v, hr, rfl⟩)

end Sys2Proof.Machine
end

/-! Prover's lemmas, 10_state.md: what the host cannot read (R73, R88, R256). -/
section
namespace Sys2Proof.Machine

/-- `t` is `s` but for the data the host cannot read and, where `sameBuf` does not hold, the bytes of BUF. -/
def SameForHost (sameBuf : Prop) (s t : State) : Prop := SameButSecret s t ∧ (sameBuf → t.buf = s.buf)

theorem sameForHost_true {s t : State} : SameForHost True s t ↔ SameButHidden s t := by
  constructor
  · rintro ⟨hsecret, hbuf⟩
    unfold SameButSecret at hsecret
    rw [hbuf trivial] at hsecret
    exact hsecret
  · intro h
    unfold SameButHidden at h
    rw [h]
    exact ⟨rfl, fun _ => rfl⟩

theorem sameForHost_false {s t : State} : SameForHost False s t ↔ SameButSecret s t :=
  ⟨fun h => h.1, fun h => ⟨h, False.elim⟩⟩

/-- The second state written as the first with other hidden data. -/
theorem SameForHost.exists_eq {b : Prop} {s s' : State} (h : SameForHost b s s') :
    ∃ st kl nl tc ts mask buf, (b → buf = s.buf) ∧
      s' = { s with st := st, kl := kl, nl := nl, tc := tc, ts := ts, mask := mask, buf := buf } :=
  ⟨_, _, _, _, _, _, _, h.2, h.1⟩

/-! Every state change of a host transaction keeps the relation. -/

section
variable {b : Prop} {s s' : State} (h : SameForHost b s s')
include h

theorem SameForHost.params_eq : s'.params = s.params := by
  obtain ⟨_, _, _, _, _, _, _, -, rfl⟩ := h.exists_eq
  rfl

theorem SameForHost.busy_eq : s'.busy = s.busy := by
  obtain ⟨_, _, _, _, _, _, _, -, rfl⟩ := h.exists_eq
  rfl

theorem SameForHost.readReg_eq (r : HostReg) : readReg s' r = readReg s r := by
  obtain ⟨_, _, _, _, _, _, _, -, rfl⟩ := h.exists_eq
  cases r <;> rfl

theorem SameForHost.respond_congr (r : BusResponse) : SameForHost b (respond r s) (respond r s') := by
  obtain ⟨_, _, _, _, _, _, _, hbuf, rfl⟩ := h.exists_eq
  exact ⟨rfl, hbuf⟩

theorem SameForHost.dropTransaction_congr : SameForHost b (dropTransaction s) (dropTransaction s') := by
  obtain ⟨_, _, _, _, _, _, _, hbuf, rfl⟩ := h.exists_eq
  exact ⟨rfl, hbuf⟩

theorem SameForHost.writeStatus_congr (v : Word) : SameForHost b (writeStatus v s) (writeStatus v s') := by
  obtain ⟨_, _, _, _, _, _, _, hbuf, rfl⟩ := h.exists_eq
  exact ⟨rfl, hbuf⟩

/-- A soft reset clears the hidden data and leaves the same unspecified BUF (R350). -/
theorem SameForHost.writeCtrl_congr (v : Word) : SameForHost b (writeCtrl v s) (writeCtrl v s') := by
  obtain ⟨_, _, _, _, _, _, _, hbuf, rfl⟩ := h.exists_eq
  cases hv : v.getLsbD 1 with
  | true =>
    rw [writeCtrl_srst hv, writeCtrl_srst hv]
    exact ⟨rfl, fun _ => rfl⟩
  | false =>
    rw [writeCtrl_no_srst hv, writeCtrl_no_srst hv]
    exact ⟨rfl, hbuf⟩

theorem SameForHost.setOperand_congr (r : HostReg) (v : Word) : SameForHost b (setOperand r v s) (setOperand r v s') := by
  obtain ⟨_, _, _, _, _, _, _, hbuf, rfl⟩ := h.exists_eq
  cases r <;> exact ⟨rfl, hbuf⟩

theorem SameForHost.acceptCommand_congr (op : BitVec 4) : SameForHost b (acceptCommand op s) (acceptCommand op s') := by
  obtain ⟨_, _, _, _, _, _, _, hbuf, rfl⟩ := h.exists_eq
  exact ⟨rfl, hbuf⟩

theorem SameForHost.writeBytes_congr (hb : b) (a : Nat) (bs : Bytes) :
    SameForHost b { s with buf := s.buf.writeBytes a bs } { s' with buf := s'.buf.writeBytes a bs } := by
  obtain ⟨_, _, _, _, _, _, buf, hbuf, rfl⟩ := h.exists_eq
  obtain rfl := hbuf hb
  exact ⟨rfl, fun _ => rfl⟩

end

/-! The same for the outcomes of a transaction. -/

/-- Two outcomes of one transaction that the host cannot tell apart. -/
inductive SameOutcome (b : Prop) : BusOutcome → BusOutcome → Prop
  | done {s s' : State} (h : SameForHost b s s') : SameOutcome b (.done s) (.done s')
  | command (w : Word) {s s' : State} (hb : s.busy = false) (h : SameForHost b s s') :
      SameOutcome b (.command w s) (.command w s')
  | busErr : SameOutcome b .busErr .busErr

theorem SameOutcome.respond_congr {b : Prop} {o o' : BusOutcome} (h : SameOutcome b o o') (r : BusResponse) :
    SameOutcome b (respondOutcome r o) (respondOutcome r o') := by
  cases h with
  | done h => exact .done (h.respond_congr r)
  | command w hb h => exact .command w hb (h.respond_congr r)
  | busErr => exact .busErr

section
variable {b : Prop} {s s' : State} (h : SameForHost b s s')
include h

theorem SameForHost.writeReg_congr (r : HostReg) (v : Word) : SameOutcome b (writeReg s r v) (writeReg s' r v) := by
  obtain hr | hr | rfl | rfl | rfl := r.kinds
  · rw [writeReg_operand hr, writeReg_operand hr, h.busy_eq]
    cases s.busy
    · exact .done (h.setOperand_congr r v)
    · exact .done h.dropTransaction_congr
  · rw [writeReg_readOnly hr, writeReg_readOnly hr]
    exact .done h
  · exact .done (h.writeCtrl_congr v)
  · rw [writeReg, writeReg, h.busy_eq]
    cases hb : s.busy
    · exact .command v hb h
    · exact .done h.dropTransaction_congr
  · exact .done (h.writeStatus_congr v)

/-- The map of the offset space depends on the parameters only (R81). -/
theorem SameForHost.regionOf_eq (off : Nat) : regionOf s' off = regionOf s off := by
  rw [regionOf, regionOf, h.params_eq]

theorem SameForHost.legalAccess_eq (off width : Nat) : legalAccess s' off width = legalAccess s off width := by
  rw [legalAccess, legalAccess, h.regionOf_eq, h.params_eq]

theorem SameForHost.offsetOf_eq (addr : Nat) : offsetOf s' addr = offsetOf s addr := by
  rw [offsetOf, offsetOf, h.params_eq]

/-- A read answers the same: BUF is read only while BUSY = 0, where the two hold the same bytes. -/
theorem SameForHost.readOffset_congr (hb : s.busy = true ∨ b) (off width : Nat) :
    (readOffset s' off width).2 = (readOffset s off width).2 ∧
    SameForHost b (readOffset s off width).1 (readOffset s' off width).1 := by
  have hregion := h.regionOf_eq off
  cases hr : regionOf s off with
  | unmapped =>
    rw [readOffset_nothing (.inl hr), readOffset_nothing (.inl (hregion.trans hr))]
    exact ⟨rfl, h⟩
  | registers =>
    cases hreg : hostRegAt off with
    | none =>
      rw [readOffset_nothing (.inr ⟨hr, hreg⟩), readOffset_nothing (.inr ⟨hregion.trans hr, hreg⟩)]
      exact ⟨rfl, h⟩
    | some r =>
      rw [readOffset_register hr hreg, readOffset_register (hregion.trans hr) hreg]
      exact ⟨h.readReg_eq r, h⟩
  | window =>
    rw [readOffset_window hr, readOffset_window (hregion.trans hr)]
    by_cases hbusy : s.busy = true
    · rw [if_pos hbusy, if_pos (h.busy_eq.trans hbusy)]
      exact ⟨rfl, h.dropTransaction_congr⟩
    · rw [if_neg hbusy, if_neg (by rwa [h.busy_eq]), h.2 (hb.resolve_left hbusy)]
      exact ⟨rfl, h⟩

theorem SameForHost.writeOffset_congr (hb : s.busy = true ∨ b) (off width : Nat) (v : Word) :
    SameOutcome b (writeOffset s off width v) (writeOffset s' off width v) := by
  have hregion := h.regionOf_eq off
  cases hr : regionOf s off with
  | unmapped =>
    rw [writeOffset_nothing (.inl hr), writeOffset_nothing (.inl (hregion.trans hr))]
    exact .done h
  | registers =>
    cases hreg : hostRegAt off with
    | none =>
      rw [writeOffset_nothing (.inr ⟨hr, hreg⟩), writeOffset_nothing (.inr ⟨hregion.trans hr, hreg⟩)]
      exact .done h
    | some r =>
      rw [writeOffset_register hr hreg, writeOffset_register (hregion.trans hr) hreg]
      exact h.writeReg_congr r v
  | window =>
    rw [writeOffset_window hr, writeOffset_window (hregion.trans hr)]
    by_cases hbusy : s.busy = true
    · rw [if_pos hbusy, if_pos (h.busy_eq.trans hbusy)]
      exact .done h.dropTransaction_congr
    · rw [if_neg hbusy, if_neg (by rwa [h.busy_eq])]
      exact .done (h.writeBytes_congr (hb.resolve_left hbusy) _ _)

theorem SameForHost.accessOffset_congr (hb : s.busy = true ∨ b) (off width : Nat) (op : BusOp) :
    SameOutcome b (accessOffset s off width op) (accessOffset s' off width op) := by
  have hlegal := h.legalAccess_eq off width
  by_cases hl : legalAccess s off width = true
  · cases op with
    | read =>
      obtain ⟨hdata, hstate⟩ := h.readOffset_congr hb off width
      rw [accessOffset_read hl, accessOffset_read (hlegal.trans hl), hdata]
      exact .done (hstate.respond_congr _)
    | write v =>
      rw [accessOffset_write hl, accessOffset_write (hlegal.trans hl)]
      exact (h.writeOffset_congr hb off width v).respond_congr _
  · rw [accessOffset_illegal hl, accessOffset_illegal (by rwa [hlegal])]
    exact .busErr

theorem SameForHost.busAccess_congr (hb : s.busy = true ∨ b) (x : Txn) :
    SameOutcome b (busAccess s x) (busAccess s' x) := by
  have hoffset := h.offsetOf_eq x.addr
  cases hoff : offsetOf s x.addr with
  | none =>
    rw [busAccess, busAccess, hoffset, hoff]
    exact .done (h.respond_congr _)
  | some off =>
    rw [busAccess_of_offset hoff, busAccess_of_offset (hoffset.trans hoff)]
    exact h.accessOffset_congr hb off x.width x.op

/-- An accepted command latches the same OP in both states. -/
theorem SameForHost.exec_congr {i : Instr} {t : State} (hb : s.busy = false) (he : exec i s = .next t) :
    ∃ t' : State, exec i s' = .next t' ∧ SameForHost b t t' := by
  have hb' : s'.busy = false := h.busy_eq.trans hb
  obtain hnop | ⟨op, hop⟩ := exec_idle_uniform i
  · rw [hnop hb] at he
    cases he
    exact ⟨s', hnop hb', h⟩
  · rw [hop hb] at he
    cases he
    exact ⟨_, hop hb', h.acceptCommand_congr op⟩

/-- No host transaction tells the two states apart, if BUF is the same or the busy rule hides it. -/
theorem SameForHost.hostTurn_congr {x : Txn} {t : State} (hb : s.busy = true ∨ b) (ht : hostTurn x s = .next t) :
    ∃ t' : State, hostTurn x s' = .next t' ∧ SameForHost b t t' := by
  rw [hostTurn] at ht ⊢
  have hrel := h.busAccess_congr hb x
  generalize busAccess s x = o at hrel ht
  generalize busAccess s' x = o' at hrel
  cases hrel with
  | done h => cases ht; exact ⟨_, rfl, h⟩
  | command w hidle h => exact h.exec_congr hidle ht
  | busErr => cases ht

end

/-- Settles O57: the first clause is the relation that keeps BUF, the second the one that does not. -/
theorem hiddenFromTheHost : Obligations.HiddenFromTheHost := by
  constructor
  · intro s s' t x h ht
    obtain ⟨t', ht', hrel⟩ := (sameForHost_true.mpr h).hostTurn_congr (.inr trivial) ht
    exact ⟨t', ht', sameForHost_true.mp hrel⟩
  · intro s s' t x hb h ht
    obtain ⟨t', ht', hrel⟩ := (sameForHost_false.mpr h).hostTurn_congr (.inl hb) ht
    exact ⟨t', ht', sameForHost_false.mp hrel⟩

end Sys2Proof.Machine
end

/-! Prover's lemmas, 20_memory.md: the legal transactions, the BUF window and the busy rule (R81 to R88). -/
section
namespace Sys2Proof.Machine

/-! Legal transactions (R81, R85). -/

theorem regionOf_registers {off : Nat} (s : State) (h : InRegisters off) : regionOf s off = .registers := if_pos h

theorem regionOf_window {s : State} {off : Nat} (h : InWindow s off) : regionOf s off = .window := by
  have hlow : ¬ off < 0x100 := by have := h.1; omega
  exact (if_neg hlow).trans (if_pos h)

theorem regionOf_unmapped {s : State} {off : Nat} (hr : ¬ InRegisters off) (hw : ¬ InWindow s off) :
    regionOf s off = .unmapped :=
  (if_neg hr).trans (if_neg hw)

theorem alignedAccess_iff {off width : Nat} : alignedAccess off width = true ↔ Aligned off width := by
  simp only [alignedAccess, Aligned, Bool.and_eq_true, Bool.or_eq_true, beq_iff_eq]
  constructor
  · rintro ⟨(rfl | rfl) | rfl, h⟩
    · exact .inl rfl
    · exact .inr (.inl ⟨rfl, h⟩)
    · exact .inr (.inr ⟨rfl, h⟩)
  · rintro (rfl | ⟨rfl, h⟩ | ⟨rfl, h⟩)
    · exact ⟨.inl (.inl rfl), Nat.mod_one off⟩
    · exact ⟨.inl (.inr rfl), h⟩
    · exact ⟨.inr rfl, h⟩

/-- The three branches of the machine's check are the three forms R85 admits. -/
theorem legalAccess_iff {s : State} {off : Nat} (hoff : off < 0x10000) (width : Nat) :
    legalAccess s off width = true ↔ LegalAccess s off width := by
  rw [legalAccess, Bool.and_eq_true, alignedAccess_iff]
  by_cases hr : InRegisters off
  · have hw : ¬ InWindow s off := fun h => by have := h.1; unfold InRegisters at hr; omega
    rw [regionOf_registers s hr]
    simp only [beq_iff_eq, LegalAccess, WindowAccess, UnmappedAccess, hr, hw, not_true, true_and, false_and, and_false,
      or_false]
    constructor
    · rintro ⟨ha, rfl⟩
      exact ⟨rfl, by unfold Aligned at ha; omega⟩
    · rintro ⟨rfl, h4⟩
      exact ⟨.inr (.inr ⟨rfl, h4⟩), rfl⟩
  · by_cases hw : InWindow s off
    · rw [regionOf_window hw]
      simp [LegalAccess, WindowAccess, UnmappedAccess, hr, hw]
    · rw [regionOf_unmapped hr hw]
      simp [LegalAccess, WindowAccess, UnmappedAccess, hr, hw, hoff]

theorem writeReg_ne_busErr (s : State) (r : HostReg) (v : Word) : writeReg s r v ≠ .busErr := by
  obtain hr | hr | rfl | rfl | rfl := r.kinds
  · rw [writeReg_operand hr]
    exact nofun
  · rw [writeReg_readOnly hr]
    exact nofun
  · exact nofun
  · rw [writeReg]
    cases s.busy <;> exact nofun
  · exact nofun

theorem writeOffset_ne_busErr (s : State) (off width : Nat) (v : Word) : writeOffset s off width v ≠ .busErr := by
  cases hr : regionOf s off with
  | unmapped => rw [writeOffset_nothing (.inl hr)]; exact nofun
  | window => rw [writeOffset_window hr]; exact nofun
  | registers =>
    cases hreg : hostRegAt off with
    | none => rw [writeOffset_nothing (.inr ⟨hr, hreg⟩)]; exact nofun
    | some r => rw [writeOffset_register hr hreg]; exact writeReg_ne_busErr s r v

theorem accessOffset_eq_busErr {s : State} {off width : Nat} {op : BusOp} :
    accessOffset s off width op = .busErr ↔ ¬ legalAccess s off width = true := by
  refine ⟨fun h hl => ?_, fun hl => accessOffset_illegal hl op⟩
  cases op with
  | read =>
    rw [accessOffset_read hl] at h
    cases h
  | write v =>
    rw [accessOffset_write hl] at h
    cases hw : writeOffset s off width v with
    | busErr => exact writeOffset_ne_busErr s off width v hw
    | done u => rw [hw] at h; cases h
    | command w u => rw [hw] at h; cases h

/-- The one fault of a host transaction is the bus error: an accepted command does not fault (R86, R328). -/
theorem hostTurn_eq_busErr {s : State} {x : Txn} : hostTurn x s = .fault .busErr ↔ busAccess s x = .busErr := by
  rw [hostTurn]
  cases hx : busAccess s x with
  | busErr => exact iff_of_true rfl rfl
  | done u => exact iff_of_false nofun nofun
  | command w u =>
    obtain ⟨hidle, -, rfl⟩ := busAccess_command hx
    refine iff_of_false (fun h => ?_) nofun
    obtain he | ⟨op, he⟩ := exec_idle_cases (decode w) (s := respond .written s) hidle
    · cases he.symm.trans h
    · cases he.symm.trans h

/-- Settles O30, by whether the address reaches an offset of the ADE. -/
theorem legalTransactions : Obligations.LegalTransactions := by
  intro s x
  rw [step_bus, hostTurn_eq_busErr]
  cases hoff : offsetOf s x.addr with
  | none =>
    rw [busAccess, hoff]
    refine iff_of_false nofun ?_
    rintro ⟨off, haddr, hlt, -⟩
    exact nomatch (offsetOf_eq_some.mpr ⟨haddr, hlt⟩).symm.trans hoff
  | some off =>
    obtain ⟨haddr, hlt⟩ := offsetOf_eq_some.mp hoff
    rw [busAccess_of_offset hoff, accessOffset_eq_busErr, legalAccess_iff hlt]
    refine ⟨fun h => ⟨off, haddr, hlt, h⟩, ?_⟩
    rintro ⟨off', haddr', -, h⟩
    obtain rfl : off' = off := by omega
    exact h

/-! A legal transaction at an offset. -/

theorem busAccess_offTxn {s : State} {off : Nat} (hoff : off < 0x10000) (width : Nat) (op : BusOp) :
    busAccess s (offTxn s off width op) = accessOffset s off width op :=
  busAccess_of_offset (x := offTxn s off width op) (offsetOf_eq_some.mpr ⟨rfl, hoff⟩)

theorem step_readOffset {s : State} {off width : Nat} (hoff : off < 0x10000) (hl : LegalAccess s off width) :
    step (s.withEvent (.bus (offTxn s off width .read))) =
      .next (respond (.data (readOffset s off width).2) (readOffset s off width).1) := by
  rw [step_bus, hostTurn, busAccess_offTxn hoff, accessOffset_read ((legalAccess_iff hoff width).mpr hl)]

theorem step_writeOffset {s u : State} {off width : Nat} {v : Word} (hoff : off < 0x10000)
    (hl : LegalAccess s off width) (hw : writeOffset s off width v = .done u) :
    step (s.withEvent (.bus (offTxn s off width (.write v)))) = .next (respond .written u) := by
  rw [step_bus, hostTurn, busAccess_offTxn hoff, accessOffset_write ((legalAccess_iff hoff width).mpr hl), hw]
  rfl

/-! Unmapped and reserved offsets (R53, R87). -/

theorem hostRegAt_reserved {off : Nat} (h : 0x058 ≤ off) : hostRegAt off = none := by
  cases hreg : hostRegAt off with
  | none => rfl
  | some r =>
    obtain rfl := hostRegAt_eq_some.mp hreg
    have hlast : r.offset ≤ 0x054 := by cases r <;> decide
    omega

/-- Settles O33: nothing stands at an unmapped or reserved offset; the rest is the read-only registers' own rules. -/
theorem ignoredAccesses : Obligations.IgnoredAccesses := by
  refine fun s v => ⟨fun off width h => ?_, fun r hr => ⟨step_readReg s r, step_write_readOnly hr s v⟩⟩
  have hlegal : off < 0x10000 ∧ LegalAccess s off width ∧ NothingAt s off := by
    obtain hu | ⟨hlow, hhigh, h4, hw⟩ := h
    · have ⟨hoff, hnr, hnw, _⟩ := hu
      exact ⟨hoff, .inr (.inr hu), .inl (regionOf_unmapped hnr hnw)⟩
    · exact ⟨by omega, .inl ⟨hhigh, hw, h4⟩, .inr ⟨regionOf_registers s hhigh, hostRegAt_reserved hlow⟩⟩
  obtain ⟨hoff, hl, hnothing⟩ := hlegal
  refine ⟨?_, step_writeOffset hoff hl (writeOffset_nothing hnothing width v)⟩
  rw [step_readOffset hoff hl, readOffset_nothing hnothing]
  rfl

/-! The BUF window (R82, R83). -/

/-- BUF_SIZE is at most 32768, so the window ends inside the offset space (R9, R81). -/
theorem WindowAccess.offset_lt {s : State} {off width : Nat} (hp : s.params.wf = true) (h : WindowAccess s off width) :
    off < 0x10000 := by
  simp only [Params.wf, Bool.and_eq_true, decide_eq_true_eq] at hp
  obtain ⟨⟨⟨⟨⟨⟨⟨-, -, hsize⟩, -⟩, -⟩, -⟩, -⟩, -⟩, -⟩ := hp
  obtain ⟨⟨-, hend⟩, -⟩ := h
  omega

theorem step_read_window {s : State} {off width : Nat} (hp : s.params.wf = true) (h : WindowAccess s off width) :
    step (s.withEvent (.bus (offTxn s off width .read))) =
      .next (if s.busy then respond (.data 0#32) (dropTransaction s)
        else respond (.data (BitVec.ofNat 32 (loadLE (s.buf.readBytes (off - 0x8000) (width / 8))))) s) := by
  rw [step_readOffset (h.offset_lt hp) (.inr (.inl h)), readOffset_window (regionOf_window h.1)]
  cases s.busy <;> rfl

theorem step_write_window {s : State} {off width : Nat} (hp : s.params.wf = true) (h : WindowAccess s off width)
    (v : Word) :
    step (s.withEvent (.bus (offTxn s off width (.write v)))) =
      .next (respond .written (if s.busy then dropTransaction s
        else { s with buf := s.buf.writeBytes (off - 0x8000) (storeLE (width / 8) v.toNat) })) :=
  step_writeOffset (h.offset_lt hp) (.inr (.inl h)) (writeOffset_window (regionOf_window h.1) width v)

/-! The busy rule (R88, R271). -/

/-- The writes that the busy rule drops (R88 (a), (b)). -/
theorem writeReg_busy {s : State} (hb : s.busy = true) {r : HostReg} (hr : r.isOperand = true ∨ r = .cmd) (v : Word) :
    writeReg s r v = .done (dropTransaction s) := by
  obtain hr | rfl := hr
  · rw [writeReg_operand hr, if_pos hb]
  · rw [writeReg, if_pos hb]

/-- Settles O31: the register rules and the window rules while BUSY = 1, and the cases of HOSTERR while BUSY = 0. -/
theorem busyRule : Obligations.BusyRule := by
  refine ⟨fun s v hp hb => ⟨fun r hr => step_writeReg (writeReg_busy hb hr v), fun off width h => ⟨?_, ?_⟩,
    step_readReg s, step_writeReg rfl, step_writeReg rfl⟩, fun s t x hb h ht => ?_⟩
  · rw [step_read_window hp h, if_pos hb]
    rfl
  · rw [step_write_window hp h, if_pos hb]
    rfl
  · rw [step_bus] at h
    obtain hkept | ⟨-, hbusy⟩ | ⟨hdown, -⟩ | ⟨hdown, -⟩ := (hostTurn_cases h).hostErr_cases
    · rwa [hkept] at ht
    · exact nomatch hb.symm.trans hbusy
    · exact nomatch hdown.symm.trans ht
    · exact nomatch hdown.symm.trans ht

/-! The lanes of a word (R83). -/

theorem byteAt_storeLE {k n : Nat} (h : k < n) (v : Nat) :
    byteAt (storeLE n v) k = BitVec.ofNat 8 (v / 2 ^ (8 * k)) := by
  induction n generalizing k v with
  | zero => exact absurd h (Nat.not_lt_zero k)
  | succ n ih =>
    cases k with
    | zero => simp [storeLE]
    | succ k =>
      have hshift : v / 256 / 2 ^ (8 * k) = v / 2 ^ (8 * (k + 1)) := by
        rw [Nat.div_div_eq_div_mul, Nat.mul_succ, Nat.add_comm, pow_add]
        rfl
      rw [storeLE, byteAt_cons_succ, ih (Nat.lt_of_succ_lt_succ h), hshift]

/-- Lane `k` of the word with the bytes of a string is byte `k` of the string. -/
theorem extractLsb'_ofNat_loadLE {b : Bytes} {k : Nat} (hk : k < b.length) (hb : b.length ≤ 4) :
    (BitVec.ofNat 32 (loadLE b)).extractLsb' (8 * k) 8 = byteAt b k := by
  have hbyte := byteAt_storeLE hk (loadLE b)
  rw [storeLE_loadLE] at hbyte
  rw [extractLsb'_ofNat (by omega), hbyte]

/-- The byte of a stored word at `k` is lane `k` of the word. -/
theorem byteAt_storeLE_toNat {k n : Nat} (hk : k < n) (hn : n ≤ 4) (v : Word) :
    byteAt (storeLE n v.toNat) k = v.extractLsb' (8 * k) 8 := by
  have hlane : (BitVec.ofNat 32 v.toNat).extractLsb' (8 * k) 8 = BitVec.ofNat 8 (v.toNat / 2 ^ (8 * k)) :=
    extractLsb'_ofNat (by omega) v.toNat
  rw [BitVec.ofNat_toNat, BitVec.setWidth_eq] at hlane
  rw [byteAt_storeLE hk, hlane]

theorem Aligned.width_eq {off width : Nat} (h : Aligned off width) : 8 * (width / 8) = width ∧ width / 8 ≤ 4 := by
  obtain rfl | ⟨rfl, -⟩ | ⟨rfl, -⟩ := h <;> decide

/-- What a BUF read while BUSY = 0 answers. -/
theorem read_window_lanes {s : State} {off width : Nat} (hp : s.params.wf = true) (hb : s.busy = false)
    (h : WindowAccess s off width) :
    ∃ w : Word, step (s.withEvent (.bus (offTxn s off width .read))) = .next { s with response := .data w } ∧
      w.toNat < 2 ^ width ∧
      ∀ k : Nat, k < width / 8 → w.extractLsb' (8 * k) 8 = s.buf.read (off - 0x8000 + k) := by
  have ⟨_, halign, _⟩ := h
  obtain ⟨hwidth, hlanes⟩ := halign.width_eq
  have hidle : ¬ s.busy = true := by simp [hb]
  have hlen := s.buf.readBytes_length (off - 0x8000) (width / 8)
  refine ⟨BitVec.ofNat 32 (loadLE (s.buf.readBytes (off - 0x8000) (width / 8))), ?_, ?_, fun k hk => ?_⟩
  · rw [step_read_window hp h, if_neg hidle]
    rfl
  · have hlt := loadLE_lt (s.buf.readBytes (off - 0x8000) (width / 8))
    rw [hlen, hwidth] at hlt
    exact (BitVec.toNat_ofNat _ _).trans_le (Nat.mod_le _ _) |>.trans_lt hlt
  · rw [extractLsb'_ofNat_loadLE (by rwa [hlen]) (by rwa [hlen])]
    exact s.buf.readBytes_getD _ _ k hk

/-- What a BUF write while BUSY = 0 stores. -/
theorem write_window_lanes {s : State} {off width : Nat} (hp : s.params.wf = true) (hm : s.buf.wf = true)
    (hb : s.busy = false) (h : WindowAccess s off width) (v : Word) :
    ∃ m : Mem,
      step (s.withEvent (.bus (offTxn s off width (.write v)))) = .next { s with buf := m, response := .written } ∧
      (∀ k : Nat, k < width / 8 → m.read (off - 0x8000 + k) = v.extractLsb' (8 * k) 8) ∧
      ∀ b : Nat, b < off - 0x8000 ∨ off - 0x8000 + width / 8 ≤ b → m.read b = s.buf.read b := by
  have ⟨_, halign, _⟩ := h
  obtain ⟨-, hlanes⟩ := halign.width_eq
  have hidle : ¬ s.busy = true := by simp [hb]
  have hlen := storeLE_length (width / 8) v.toNat
  refine ⟨s.buf.writeBytes (off - 0x8000) (storeLE (width / 8) v.toNat), ?_,
    fun k hk => ?_, fun b hout => Mem.read_writeBytes_outside hm (by rwa [hlen])⟩
  · rw [step_write_window hp h, if_neg hidle]
    rfl
  · rw [Mem.read_writeBytes _ _ _ hm, hlen, if_pos (by omega), Nat.add_sub_cancel_left]
    exact byteAt_storeLE_toNat hk hlanes v

/-- The 32-bit word of BUF that holds byte `a`: BUF_SIZE is a multiple of 4 (R9). -/
theorem windowAccess_word {s : State} {a : Nat} (hp : s.params.wf = true) (ha : a < s.params.bufSize) :
    WindowAccess s (0x8000 + 4 * (a / 4)) 32 := by
  simp only [Params.wf, Bool.and_eq_true, decide_eq_true_eq] at hp
  obtain ⟨⟨⟨⟨⟨⟨⟨hmod, -, -⟩, -⟩, -⟩, -⟩, -⟩, -⟩, -⟩ := hp
  refine ⟨⟨?_, ?_⟩, .inr (.inr ⟨rfl, ?_⟩), ?_⟩ <;> omega

/-- Settles O32: the reads, the writes, and a byte written and then read back as its lane of the word. -/
theorem bufWindow : Obligations.BufWindow := by
  refine fun s hp hm hb => ⟨fun off width h => ⟨read_window_lanes hp hb h, fun v => ?_⟩, fun a v ha => ?_⟩
  · obtain ⟨m, hstep, hlanes, hout⟩ := write_window_lanes hp hm hb h v
    exact ⟨_, hstep, hlanes, hout, rfl⟩
  · have hbyte : WindowAccess s (0x8000 + a) 8 := ⟨⟨by omega, by omega⟩, .inl rfl, by omega⟩
    obtain ⟨m, hstep, hlanes, -⟩ := write_window_lanes hp hm hb hbyte v
    obtain ⟨w, hread, -, hword⟩ :=
      read_window_lanes (s := { s with buf := m, response := .written }) hp hb (windowAccess_word hp ha)
    refine ⟨_, w, hstep, hread, ?_⟩
    have hstored : m.read a = v.extractLsb' 0 8 := by simpa using hlanes 0 (by decide)
    have hoffset : 0x8000 + 4 * (a / 4) - 0x8000 + a % 4 = a := by omega
    rw [hword (a % 4) (by omega), hoffset, hstored]

end Sys2Proof.Machine
end

/-! Prover's lemmas, 20_memory.md: runs of the sequencer, and ENCRYPT or DECRYPT under way (R206, R207). -/
section
namespace Sys2Proof.Machine

/-! Runs of the sequencer with no event pending (R206). -/

/-- `t` is reached from `s` in `n` steps of the machine, and BUSY = 1 from `s` to `t`. -/
inductive BusyRun : Nat → State → State → Prop
  | refl {s : State} (hb : s.busy = true) : BusyRun 0 s s
  | cons {n : Nat} {s u t : State} (hb : s.busy = true) (hs : step s = .next u) (h : BusyRun n u t) :
      BusyRun (n + 1) s t

theorem BusyRun.single {s t : State} (hb : s.busy = true) (hs : step s = .next t) (ht : t.busy = true) :
    BusyRun 1 s t :=
  .cons hb hs (.refl ht)

theorem BusyRun.append {m n : Nat} {s u t : State} (h : BusyRun m s u) (h' : BusyRun n u t) : BusyRun (m + n) s t := by
  induction h with
  | refl _ => rwa [Nat.zero_add]
  | cons hb hs _ ih => rw [Nat.succ_add]; exact .cons hb hs (ih h')

theorem core_run_succ {s u : State} (h : step s = .next u) (n : Nat) :
    Sys2Proof.core.run (n + 1) s = Sys2Proof.core.run n u := by
  have hcore : Sys2Proof.core.step s = .next u := h
  simp only [Host.Core.run, hcore]

theorem BusyRun.run_add {n : Nat} {s t : State} (h : BusyRun n s t) (k : Nat) :
    Sys2Proof.core.run (n + k) s = Sys2Proof.core.run k t := by
  induction h with
  | refl _ => rw [Nat.zero_add]
  | cons _ hs _ ih => rw [Nat.succ_add, core_run_succ hs, ih]

theorem BusyRun.busy_between {n : Nat} {s t : State} (h : BusyRun n s t) {k : Nat} (hk : k ≤ n) :
    ∃ u : State, Sys2Proof.core.run k s = .next u ∧ u.busy = true := by
  induction h generalizing k with
  | refl hb =>
    obtain rfl := Nat.le_zero.mp hk
    exact ⟨_, rfl, hb⟩
  | cons hb hs _ ih =>
    cases k with
    | zero => exact ⟨_, rfl, hb⟩
    | succ k =>
      rw [core_run_succ hs]
      exact ih (Nat.le_of_succ_le_succ hk)

/-- A command completes that is accepted, runs with BUSY = 1, and then takes its last step. -/
theorem completesIn_of_busyRun {s u v t : State} {n : Nat} (haccept : step s = .next u) (hrun : BusyRun n u v)
    (hlast : step v = .next t) (ht : t.busy = false) : CompletesIn s (n + 1) t := by
  refine ⟨?_, ht, fun k hk => ?_⟩
  · rw [core_run_succ haccept, hrun.run_add, core_run_succ hlast]
    rfl
  · rw [core_run_succ haccept]
    exact hrun.busy_between (Nat.le_of_lt_succ hk)

/-! The checks of ENCRYPT and DECRYPT as the statements list them (R207, R316). -/

theorem firstFailing_eq_none {l : List (Detail × Bool)} : firstFailing l = none ↔ ∀ p ∈ l, p.2 = false := by
  induction l with
  | nil => simp [firstFailing]
  | cons p l ih =>
    obtain ⟨e, failed⟩ := p
    cases failed <;> simp [firstFailing, ih]

theorem outside_eq (s : State) (ptr : Word) (len : Nat) : outside s ptr len = regionOutside s ptr len :=
  (Bool.decide_and _ _).symm

theorem exceeds_eq (len : Nat) (ceiling : Option Nat) :
    exceeds len ceiling = ceiling.any (fun c => decide (len > c)) := by
  cases ceiling <;> rfl

/-- The list of the checks with the machine's own terms for the lengths and the regions. -/
theorem aeadFailures_eq (d : Dir) (P : Profile) (s : State) :
    aeadFailures d P s =
      [(.badKeyLen, decide (s.keyLen.toNat ≠ P.keyLen)),
       (.badNonceLen, decide (s.nonceLen.toNat ≠ P.nonceLen)),
       (.shortInput, decide (d = .dec ∧ s.inLen.toNat < P.tagLen)),
       (.adTooLong, exceeds s.adLen.toNat P.maxAd),
       (.msgTooLong, exceeds (messageLen d P s) P.maxMsg),
       (.bounds, (aeadRegions d P s).any (fun r => regionOutside s r.1 r.2)),
       (.overlap, payloadsOverlap s (messageLen d P s))] := by
  have hoverlap (m : Nat) : payloadsOverlap s m = (decide (0 < m) && s.inPtr != s.outPtr &&
      decide (s.inPtr.toNat < s.outPtr.toNat + m) && decide (s.outPtr.toNat < s.inPtr.toNat + m)) := by
    simp [payloadsOverlap, bne, beq_eq_decide, Bool.and_assoc]
  simp only [hoverlap, exceeds_eq, ← outside_eq, aeadRegions, List.any_cons, List.any_nil, Bool.or_false,
    ← Bool.or_assoc, Bool.decide_and]
  cases d <;> rfl

theorem aeadCheck_of_passes {d : Dir} {P : Profile} {s : State} (hp : s.params.wf = true) (h : AeadPasses d P s) :
    aeadCheck d s = .ok P := by
  obtain ⟨hsel, hfail⟩ := h
  rw [aeadFailures_eq, firstFailing_eq_none] at hfail
  simp only [List.forall_mem_cons, decide_eq_false_iff_not, ne_eq, not_not, not_and, not_lt] at hfail
  obtain ⟨hkey, hnonce, hshort, had, hmsg, hbounds, hoverlap, -⟩ := hfail
  exact aeadCheck_eq_ok.mpr ⟨profileOf_of_selects hp hsel, hkey, hnonce, hshort, had, hmsg, by simpa using hbounds,
    hoverlap⟩

/-! ENCRYPT or DECRYPT under way: BUSY = 1, no event pending, every check of R207 passing. -/

/-- The sequencer's step of ENCRYPT or DECRYPT (R206). -/
def Dir.sequence : Dir → State → Out
  | .enc => encryptSequence
  | .dec => decryptSequence

/-- A running ENCRYPT or DECRYPT whose checks pass, with nothing pending to disturb it. -/
structure Underway (d : Dir) (P : Profile) (s : State) : Prop where
  params : s.params.wf = true
  bufWf : s.buf.wf = true
  busy : s.busy = true
  op : s.op = d.op
  agenda : s.agenda = []
  checked : aeadCheck d s = .ok P

theorem EngineFrame.aeadCheck_eq {s t : State} (h : EngineFrame s t) (d : Dir) : aeadCheck d t = aeadCheck d s := by
  unfold EngineFrame at h
  rw [h]
  rfl

section
variable {d : Dir} {P : Profile} {s t : State}

/-- The checks look at nothing the sequencer writes, so they keep passing. -/
theorem Underway.of_frame (h : Underway d P s) (hf : EngineFrame s t) (hm : t.buf.wf = true) (hb : t.busy = true)
    (ho : t.op = s.op) : Underway d P t where
  params := by rw [hf.params_eq, h.params]
  bufWf := hm
  busy := hb
  op := ho.trans h.op
  agenda := hf.agenda_eq.trans h.agenda
  checked := (hf.aeadCheck_eq d).trans h.checked

theorem Underway.step_eq (h : Underway d P s) : step s = d.sequence s := by
  rw [step, h.agenda]
  refine (sequencerTurn_busy h.busy).trans ?_
  rw [h.op]
  cases d <;> rfl

theorem Underway.run_of_sequence (h : Underway d P s) (hs : d.sequence s = .next t) (ht : t.busy = true) :
    BusyRun 1 s t :=
  .single h.busy (h.step_eq.trans hs) ht

theorem Underway.profile (h : Underway d P s) : profileOf s = some P := (aeadCheck_eq_ok.mp h.checked).1

theorem Underway.profile_wf (h : Underway d P s) : P.wf s.params.sMax = true :=
  profile_wf_of_params h.params (lookupProfile_mem h.profile).1

theorem Underway.region_inBuf (h : Underway d P s) {r : Word × Nat} (hr : r ∈ aeadRegions d P s) :
    inBuf s r.1.toNat r.2 := by
  obtain ⟨-, -, -, -, -, -, hregions, -⟩ := aeadCheck_eq_ok.mp h.checked
  exact inBuf_of_region (hregions r hr)

theorem Underway.ad_inBuf (h : Underway d P s) : inBuf s s.adPtr.toNat s.adLen.toNat :=
  h.region_inBuf (r := (s.adPtr, s.adLen.toNat)) (by simp [aeadRegions])

theorem messageLen_le (d : Dir) (P : Profile) (s : State) : messageLen d P s ≤ s.inLen.toNat := by
  cases d
  · exact le_rfl
  · exact Nat.sub_le _ _

theorem messageLen_le_outputLen (d : Dir) (P : Profile) (s : State) : messageLen d P s ≤ outputLen d P s := by
  cases d
  · exact Nat.le_add_right _ _
  · exact le_rfl

theorem Underway.message_inBuf (h : Underway d P s) : inBuf s s.inPtr.toNat (messageLen d P s) := by
  have hin : s.inLen.toNat = 0 ∨ s.inPtr.toNat + s.inLen.toNat ≤ s.params.bufSize :=
    h.region_inBuf (r := (s.inPtr, s.inLen.toNat)) (by simp [aeadRegions])
  have hle := messageLen_le d P s
  show messageLen d P s = 0 ∨ _
  omega

theorem Underway.output_inBuf (h : Underway d P s) : inBuf s s.outPtr.toNat (outputLen d P s) :=
  h.region_inBuf (r := (s.outPtr, outputLen d P s)) (by simp [aeadRegions])

theorem Underway.payload_inBuf (h : Underway d P s) : inBuf s s.outPtr.toNat (messageLen d P s) := by
  have hout : outputLen d P s = 0 ∨ s.outPtr.toNat + outputLen d P s ≤ s.params.bufSize := h.output_inBuf
  have hle := messageLen_le_outputLen d P s
  show messageLen d P s = 0 ∨ _
  omega

/-- The output payload never runs ahead of the input it replaces: it ends before the input, or starts no later (R92,
R207). -/
theorem Underway.payload_order (h : Underway d P s) :
    s.inPtr.toNat + messageLen d P s ≤ s.outPtr.toNat ∨ s.outPtr.toNat ≤ s.inPtr.toNat ∨ messageLen d P s = 0 := by
  obtain ⟨-, -, -, -, -, -, -, hoverlap⟩ := aeadCheck_eq_ok.mp h.checked
  simp only [payloadsOverlap, decide_eq_false_iff_not, not_and, not_lt] at hoverlap
  by_cases heq : s.inPtr = s.outPtr
  · exact .inr (.inl (by rw [heq]))
  · by_cases hm : 0 < messageLen d P s
    · have hsplit := hoverlap hm heq
      omega
    · omega

end

/-! The step PHASE selects (R206). -/

section
variable {s : State}

theorem Dir.sequence_check {d : Dir} (h : s.phase = .check) : d.sequence s = aeadCheckStep d s := by
  cases d <;> simp [Dir.sequence, encryptSequence, decryptSequence, h]

theorem Dir.sequence_init {d : Dir} (h : s.phase = .init) : d.sequence s = initStep s := by
  cases d <;> simp [Dir.sequence, encryptSequence, decryptSequence, h]

theorem Dir.sequence_ad {d : Dir} (h : s.phase = .ad) : d.sequence s = adStep s := by
  cases d <;> simp [Dir.sequence, encryptSequence, decryptSequence, h]

theorem Dir.sequence_msg {d : Dir} (h : s.phase = .msg) : d.sequence s = msgStep d s := by
  cases d <;> simp [Dir.sequence, encryptSequence, decryptSequence, h]

theorem Dir.sequence_final {d : Dir} (h : s.phase = .final) : d.sequence s = finalStep d s := by
  cases d <;> simp [Dir.sequence, encryptSequence, decryptSequence, h]

theorem Dir.sequence_verify (h : s.phase = .verify) : Dir.dec.sequence s = verifyStep s := by
  simp [Dir.sequence, decryptSequence, h]

theorem Dir.sequence_scrub (h : s.phase = .scrub) : Dir.dec.sequence s = scrubStep s := by
  simp [Dir.sequence, decryptSequence, h]

theorem Dir.sequence_wipe {d : Dir} (h : s.phase = .wipe) : d.sequence s = .next (wipe s) := by
  cases d <;> simp [Dir.sequence, encryptSequence, decryptSequence, h]

end

/-! The steps of one phase (R175, R206). -/

/-- From offset `off` a phase of length `total` and unit `u` ends after `k` steps, each consuming what the classifier
says. -/
inductive PhaseRun (total u : Nat) (ph : PadPhase) : Nat → Nat → Prop
  | last {off : Nat} (hlast : off + (classify total off u ph).1 = total) : PhaseRun total u ph off 1
  | more {off k : Nat} (hmore : off + (classify total off u ph).1 < total)
      (rest : PhaseRun total u ph (off + (classify total off u ph).1) k) : PhaseRun total u ph off (k + 1)

theorem phaseSteps_of_le {len u : Nat} (hu : 1 ≤ u) (h : len ≤ u) : phaseSteps len u = 1 := by
  have hlt : (len + u - 1) / u < 2 := Nat.div_lt_of_lt_mul (by omega)
  unfold phaseSteps
  omega

theorem phaseSteps_add {len u : Nat} (hu : 1 ≤ u) (h : 0 < len) : phaseSteps (len + u) u = phaseSteps len u + 1 := by
  have hpos : 1 ≤ (len + u - 1) / u := (Nat.one_le_div_iff hu).mpr (by omega)
  have hnext : (len + u + u - 1) / u = (len + u - 1) / u + 1 := by
    rw [show len + u + u - 1 = len + u - 1 + u by omega, Nat.add_div_right _ hu]
  unfold phaseSteps
  omega

theorem classify_fst_of_lt {total off u : Nat} (h : u < total - off) (ph : PadPhase) :
    (classify total off u ph).1 = u := by
  obtain ⟨h0, -⟩ | ⟨-, -, hc⟩ | ⟨-, he, -⟩ | ⟨-, hlt, -⟩ := classify_cases total off u ph
  · omega
  · rw [hc]
  · omega
  · omega

theorem classify_fst_of_le {total off u : Nat} (h : total - off ≤ u) (ph : PadPhase) :
    (classify total off u ph).1 = total - off := by
  obtain ⟨h0, hc⟩ | ⟨-, hlt, -⟩ | ⟨-, he, hc⟩ | ⟨-, -, hc⟩ := classify_cases total off u ph
  · rw [hc, h0, Nat.zero_sub]
  · omega
  · rw [hc, he]
  · rw [hc]

theorem phaseRun_of_le {total u off : Nat} (hu : 1 ≤ u) (ph : PadPhase) (hoff : off ≤ total) :
    PhaseRun total u ph off (phaseSteps (total - off) u) := by
  by_cases h : u < total - off
  · have hc := classify_fst_of_lt h ph
    have hrest := phaseRun_of_le (total := total) (off := off + u) hu ph (by omega)
    have hsteps := phaseSteps_add (len := total - (off + u)) hu (by omega)
    rw [show total - (off + u) + u = total - off by omega] at hsteps
    rw [hsteps]
    refine .more (by omega) ?_
    rwa [hc]
  · rw [phaseSteps_of_le hu (by omega)]
    have hc := classify_fst_of_le (by omega : total - off ≤ u) ph
    exact .last (by omega)
termination_by total - off

/-- The steps of a whole phase. -/
theorem phaseRun_zero {u : Nat} (hu : 1 ≤ u) (total : Nat) (ph : PadPhase) :
    PhaseRun total u ph 0 (phaseSteps total u) :=
  phaseRun_of_le hu ph (Nat.zero_le total)

end Sys2Proof.Machine
end

/-! Prover's lemmas, 20_memory.md: the AD and MSG phases of ENCRYPT or DECRYPT as runs (R212, R214, R215). -/
section
namespace Sys2Proof.Machine

/-! Parts of a string of BUF bytes. -/

theorem Mem.readBytes_split (m : Mem) (a : Nat) {n k : Nat} (h : n ≤ k) :
    m.readBytes a k = m.readBytes a n ++ m.readBytes (a + n) (k - n) := by
  rw [← Mem.readBytes_append, Nat.add_sub_cancel' h]

theorem Mem.take_readBytes (m : Mem) (a : Nat) {n k : Nat} (h : n ≤ k) :
    (m.readBytes a k).take n = m.readBytes a n := by
  rw [m.readBytes_split a h, List.take_left' (m.readBytes_length a n)]

theorem Mem.drop_readBytes (m : Mem) (a : Nat) {n k : Nat} (h : n ≤ k) :
    (m.readBytes a k).drop n = m.readBytes (a + n) (k - n) := by
  rw [m.readBytes_split a h, List.drop_left' (m.readBytes_length a n)]

/-- Writing a string over one of the same length leaves the second. -/
theorem Mem.writeBytes_overwrite {m : Mem} (a : Nat) {xs ys : Bytes} (hm : m.wf = true) (h : xs.length = ys.length) :
    (m.writeBytes a xs).writeBytes a ys = m.writeBytes a ys := by
  have hxs := Mem.wf_writeBytes a xs hm
  refine Mem.ext (Mem.wf_writeBytes a ys hxs) (Mem.wf_writeBytes a ys hm) (fun b => ?_)
  rw [Mem.read_writeBytes a ys b hxs, Mem.read_writeBytes a ys b hm, Mem.read_writeBytes a xs b hm, h]
  split <;> rfl

/-- The bytes of `X` from `off` on stand in BUF `m` where those of a string `X` at `a` would. -/
def RestAt (X : Bytes) (off : Nat) (m : Mem) (a : Nat) : Prop :=
  m.readBytes (a + off) (X.length - off) = X.drop off

section
variable {X : Bytes} {off a : Nat} {m : Mem}

theorem restAt_zero (m : Mem) (a n : Nat) : RestAt (m.readBytes a n) 0 m a := by
  rw [RestAt, Mem.readBytes_length]
  rfl

theorem RestAt.slice_eq (h : RestAt X off m a) {n : Nat} (hn : n ≤ X.length - off) :
    m.readBytes (a + off) n = slice X off n := by
  rw [slice, ← h, m.take_readBytes _ hn]

theorem RestAt.advance (h : RestAt X off m a) {n : Nat} (hn : n ≤ X.length - off) : RestAt X (off + n) m a := by
  rw [RestAt, ← List.drop_drop, ← h, m.drop_readBytes _ hn, Nat.add_assoc, Nat.sub_sub]

/-- A write that ends before the rest, or starts after it, leaves it. -/
theorem RestAt.writeBytes (h : RestAt X off m a) (hm : m.wf = true) {b : Nat} {bs : Bytes}
    (hd : a + X.length ≤ b ∨ b + bs.length ≤ a + off ∨ X.length ≤ off) : RestAt X off (m.writeBytes b bs) a := by
  rw [RestAt, Mem.readBytes_writeBytes_disjoint hm (by omega)]
  exact h

end

theorem ofNat_toNat_eq (v : Word) : BitVec.ofNat 32 v.toNat = v := by
  rw [BitVec.ofNat_toNat, BitVec.setWidth_eq]

/-! The AD phase (R212). -/

section
variable {d : Dir} {P : Profile} {s : State} {S Z : Bytes}

theorem absorbFrom_succ (P : Profile) (A : Bytes) (k off : Nat) (S : Bytes) :
    absorbFrom P A (k + 1) off S =
      absorbFrom P A k (off + (classify A.length off P.unitAd .ad).1)
        (famAbsorb P S (pad (slice A off (classify A.length off P.unitAd .ad).1) P.unitAd P.padMode)
          (classify A.length off P.unitAd .ad).1 (domByte P (classify A.length off P.unitAd .ad).2)) := rfl

/-- The state an AD step leaves, with the profile's state `S` at the start of ST. -/
theorem absorbAd_eq (hst : s.st = S ++ Z) (hS : S.length = P.stateBytes) (x : Bytes) :
    absorbAd P x s = { s with
      st := famAbsorb P S (pad x P.unitAd P.padMode) (adBlock P s).1 (domByte P (adBlock P s).2) ++ Z
      adOff := BitVec.ofNat 32 (s.adOff.toNat + (adBlock P s).1)
      phase := if s.adLen.toNat ≤ s.adOff.toNat + (adBlock P s).1 then .msg else .ad } := by
  rw [absorbAd, hst, List.take_left' hS, List.drop_left' hS]

theorem EngineFrame.trans {s t u : State} (h : EngineFrame s t) (h' : EngineFrame t u) : EngineFrame s u := by
  unfold EngineFrame at h h'
  rw [h] at h'
  exact h'

/-- Whatever the sequencer writes to its own fields. -/
theorem engineFrame_update (s : State) {busy done : Bool} {result : Result} {phase : Phase} {detail : Detail}
    {outLen adOff mOff mLen : Word} {st kl nl tc ts : Bytes} {mask : Byte} {op : BitVec 4} {buf : Mem} :
    EngineFrame s { s with
      busy := busy, done := done, result := result, phase := phase, detail := detail, outLen := outLen, st := st
      kl := kl, nl := nl, tc := tc, ts := ts, mask := mask, op := op, adOff := adOff, mOff := mOff, mLen := mLen
      buf := buf } := rfl

/-- A step that keeps BUSY and OP keeps the command under way. -/
theorem Underway.update (h : Underway d P s) {done : Bool} {result : Result} {phase : Phase} {detail : Detail}
    {outLen adOff mOff mLen : Word} {st kl nl tc ts : Bytes} {mask : Byte} {buf : Mem} (hm : buf.wf = true) :
    Underway d P { s with
      done := done, result := result, phase := phase, detail := detail, outLen := outLen, st := st, kl := kl, nl := nl
      tc := tc, ts := ts, mask := mask, adOff := adOff, mOff := mOff, mLen := mLen, buf := buf } :=
  h.of_frame (engineFrame_update s) hm h.busy rfl

theorem Underway.adStep_run (h : Underway d P s) (hphase : s.phase = .ad) :
    BusyRun 1 s (absorbAd P (s.buf.readBytes (s.adPtr.toNat + s.adOff.toNat) (adBlock P s).1) s) := by
  refine h.run_of_sequence ((Dir.sequence_ad hphase).trans (adStep_eq h.profile ?_)) h.busy
  have hin : s.adLen.toNat = 0 ∨ s.adPtr.toNat + s.adLen.toNat ≤ s.params.bufSize := h.ad_inBuf
  have hn : (adBlock P s).1 ≤ s.adLen.toNat - s.adOff.toNat := classify_le_rest _ _ _ _
  show (adBlock P s).1 = 0 ∨ _
  omega

/-- The AD phase absorbs the rest of the associated data (R233). -/
theorem Underway.absorb_run {A : Bytes} {off k : Nat} (hk : PhaseRun A.length P.unitAd .ad off k)
    (h : Underway d P s) (hphase : s.phase = .ad) (hlen : s.adLen.toNat = A.length) (hoff : s.adOff.toNat = off)
    (hA : RestAt A off s.buf s.adPtr.toNat) (hst : s.st = S ++ Z) (hS : S.length = P.stateBytes) :
    BusyRun k s { s with st := absorbFrom P A k off S ++ Z, adOff := s.adLen, phase := .msg } := by
  have hlt := s.adLen.isLt
  induction hk generalizing s S with
  | @last off hlast =>
    have hstep := h.adStep_run hphase
    rw [absorbAd_eq hst hS, adBlock, hlen, hoff, hlast, if_pos le_rfl, ← hlen, ofNat_toNat_eq, hlen,
      hA.slice_eq (classify_le_rest _ _ _ _)] at hstep
    exact hstep
  | @more off k hmore rest ih =>
    have hstep := h.adStep_run hphase
    rw [absorbAd_eq hst hS, adBlock, hlen, hoff, if_neg (by omega), hA.slice_eq (classify_le_rest _ _ _ _)] at hstep
    rw [absorbFrom_succ, Nat.add_comm]
    refine hstep.append ?_
    exact ih (h.update h.bufWf) rfl hlen (Nat.mod_eq_of_lt (by omega)) (hA.advance (classify_le_rest _ _ _ _)) rfl
      (famAbsorb_length _ _ _ _ _) hlt


/-! The MSG phase (R214, R215). -/

/-- What the profile computes in one MSG step of either direction: the new state and the output. -/
def msgUnit (d : Dir) (P : Profile) (S x : Bytes) (c : Nat × DomClass) : Bytes × Bytes :=
  match d with
  | .enc => famEncBlock P S (pad x P.unitMsg P.padMode) c.1 (domByte P c.2)
  | .dec => famDecBlock P S x c.1 (domByte P c.2)

theorem msgOutput_eq (d : Dir) (P : Profile) (x : Bytes) (s : State) :
    msgOutput d P x s = msgUnit d P (s.st.take P.stateBytes) x (msgBlock P s) := by
  cases d <;> rfl

@[simp] theorem msgUnit_fst_length (d : Dir) (P : Profile) (S x : Bytes) (c : Nat × DomClass) :
    (msgUnit d P S x c).1.length = P.stateBytes := by
  cases d <;> simp [msgUnit]

@[simp] theorem msgUnit_snd_length (d : Dir) (P : Profile) (S x : Bytes) (c : Nat × DomClass) :
    (msgUnit d P S x c).2.length = c.1 := by
  cases d <;> simp [msgUnit]

/-- The rest of `EncAll` or of `DecAll` (R233). -/
def msgFrom (d : Dir) (P : Profile) (X : Bytes) (k off : Nat) (S : Bytes) : Bytes × Bytes :=
  match d with
  | .enc => encFrom P X k off S
  | .dec => decFrom P X k off S

theorem msgFrom_zero (d : Dir) (P : Profile) (X : Bytes) (off : Nat) (S : Bytes) :
    msgFrom d P X 0 off S = (S, []) := by
  cases d <;> rfl

theorem msgFrom_succ (d : Dir) (P : Profile) (X : Bytes) (k off : Nat) (S : Bytes) {c : Nat × DomClass}
    (hc : classify X.length off P.unitMsg .msg = c) {r : Bytes × Bytes} (hr : msgUnit d P S (slice X off c.1) c = r) :
    msgFrom d P X (k + 1) off S =
      ((msgFrom d P X k (off + c.1) r.1).1, r.2 ++ (msgFrom d P X k (off + c.1) r.1).2) := by
  subst hc hr
  cases d <;> rfl

/-- The state a MSG step leaves, with the profile's state `S` at the start of ST. -/
theorem advanceMsg_eq (hst : s.st = S ++ Z) (hS : S.length = P.stateBytes) (x : Bytes) (m : Mem) :
    advanceMsg d P x m s = { s with
      buf := m
      st := (msgUnit d P S x (msgBlock P s)).1 ++ Z
      mOff := BitVec.ofNat 32 (s.mOff.toNat + (msgBlock P s).1)
      phase := if s.mLen.toNat ≤ s.mOff.toNat + (msgBlock P s).1 then .final else .msg } := by
  rw [advanceMsg, msgOutput_eq, hst, List.take_left' hS, List.drop_left' hS]

theorem Underway.msgStep_run (h : Underway d P s) (hphase : s.phase = .msg) (hlen : s.mLen.toNat = messageLen d P s) :
    BusyRun 1 s (advanceMsg d P (s.buf.readBytes (s.inPtr.toNat + s.mOff.toNat) (msgBlock P s).1)
      (s.buf.writeBytes (s.outPtr.toNat + s.mOff.toNat)
        (msgOutput d P (s.buf.readBytes (s.inPtr.toNat + s.mOff.toNat) (msgBlock P s).1) s).2) s) := by
  have hin : messageLen d P s = 0 ∨ s.inPtr.toNat + messageLen d P s ≤ s.params.bufSize := h.message_inBuf
  have hout : messageLen d P s = 0 ∨ s.outPtr.toNat + messageLen d P s ≤ s.params.bufSize := h.payload_inBuf
  have hn : (msgBlock P s).1 ≤ s.mLen.toNat - s.mOff.toNat := classify_le_rest _ _ _ _
  refine h.run_of_sequence ((Dir.sequence_msg hphase).trans (msgStep_eq h.profile ?_ ?_)) h.busy
  · show (msgBlock P s).1 = 0 ∨ _
    omega
  · show (msgBlock P s).1 = 0 ∨ _
    omega

/-- The MSG phase writes the rest of the output payload over, before or after the input it has read (R92, R233). -/
theorem Underway.msg_run {X : Bytes} {off k : Nat} (hk : PhaseRun X.length P.unitMsg .msg off k)
    (h : Underway d P s) (hphase : s.phase = .msg) (hmessage : s.mLen.toNat = messageLen d P s)
    (hlen : s.mLen.toNat = X.length) (hoff : s.mOff.toNat = off) (hX : RestAt X off s.buf s.inPtr.toNat)
    (hst : s.st = S ++ Z) (hS : S.length = P.stateBytes) :
    BusyRun k s { s with
      buf := s.buf.writeBytes (s.outPtr.toNat + off) (msgFrom d P X k off S).2
      st := (msgFrom d P X k off S).1 ++ Z
      mOff := s.mLen
      phase := .final } := by
  have hlt := s.mLen.isLt
  induction hk generalizing s S with
  | @last off hlast =>
    have hstep := h.msgStep_run hphase hmessage
    rw [advanceMsg_eq hst hS, msgOutput_eq, hst, List.take_left' hS, msgBlock, hlen, hoff, hlast, if_pos le_rfl, ← hlen,
      ofNat_toNat_eq, hlen, hX.slice_eq (classify_le_rest _ _ _ _)] at hstep
    rw [msgFrom_succ d P X 0 off S rfl rfl, msgFrom_zero, List.append_nil]
    exact hstep
  | @more off k hmore rest ih =>
    have hstep := h.msgStep_run hphase hmessage
    rw [advanceMsg_eq hst hS, msgOutput_eq, hst, List.take_left' hS, msgBlock, hlen, hoff, if_neg (by omega),
      hX.slice_eq (classify_le_rest _ _ _ _)] at hstep
    rw [msgFrom_succ d P X k off S rfl rfl, Nat.add_comm, Mem.writeBytes_append, msgUnit_snd_length, Nat.add_assoc]
    refine hstep.append ?_
    refine ih (h.update (Mem.wf_writeBytes _ _ h.bufWf)) rfl hmessage hlen (Nat.mod_eq_of_lt (by omega)) ?_ rfl
      (msgUnit_fst_length _ _ _ _ _) hlt
    have horder := h.payload_order
    refine (hX.advance (classify_le_rest _ _ _ _)).writeBytes h.bufWf ?_
    rw [msgUnit_snd_length]
    omega

end

end Sys2Proof.Machine
end

/-! Prover's lemmas, 20_memory.md: a whole ENCRYPT or DECRYPT, and the same command in place (R92, R233). -/
section
namespace Sys2Proof.Machine

/-! CHECK and INIT (R208, R210). -/

/-- The key operand in BUF (R120). -/
abbrev keyOf (P : Profile) (s : State) : Bytes := s.buf.readBytes s.keyPtr.toNat P.keyLen

/-- The nonce operand in BUF. -/
abbrev nonceOf (P : Profile) (s : State) : Bytes := s.buf.readBytes s.noncePtr.toNat P.nonceLen

/-- The associated data in BUF. -/
abbrev adOf (s : State) : Bytes := s.buf.readBytes s.adPtr.toNat s.adLen.toNat

/-- The message in BUF: the plaintext, or the ciphertext without its tag. -/
abbrev messageOf (d : Dir) (P : Profile) (s : State) : Bytes := s.buf.readBytes s.inPtr.toNat (messageLen d P s)

/-- The supplied tag in BUF (R208). -/
abbrev suppliedTagOf (P : Profile) (s : State) : Bytes := s.buf.readBytes (suppliedTagPtr P s) P.tagLen

/-- The state after CHECK (R208). -/
def afterCheck (d : Dir) (P : Profile) (s : State) : State :=
  latchOperands d P (keyOf P s) (nonceOf P s) (suppliedTagOf P s) s

/-- The state and the output payload of the profile once the message is consumed (R233). -/
def processMessage (d : Dir) (P : Profile) (K N A X : Bytes) : Bytes × Bytes :=
  msgFrom d P X (phaseSteps X.length P.unitMsg) 0 (absorbAll P (famInit P K N) A)

/-- The tag computed from the state that `processMessage` leaves (R220, R233). -/
def processTag (d : Dir) (P : Profile) (K N A X : Bytes) : Bytes :=
  famFinalize P (processMessage d P K N A X).1 K N

theorem aeadEncParts_eq (P : Profile) (K N A X : Bytes) :
    aeadEncParts P K N A X = ((processMessage .enc P K N A X).2, processTag .enc P K N A X) := rfl

theorem aeadDecParts_eq (P : Profile) (K N A X : Bytes) :
    aeadDecParts P K N A X = ((processMessage .dec P K N A X).2, processTag .dec P K N A X) := rfl

/-- `processMessage` of the operands in BUF. -/
abbrev messageResult (d : Dir) (P : Profile) (s : State) : Bytes × Bytes :=
  processMessage d P (keyOf P s) (nonceOf P s) (adOf s) (messageOf d P s)

/-- The state after INIT (R210). -/
def afterInit (d : Dir) (P : Profile) (s : State) : State :=
  { afterCheck d P s with
    st := famInit P (keyOf P s) (nonceOf P s) ++ zeros (s.params.sMax - P.stateBytes)
    phase := .ad }

/-- The state after the AD phase (R212). -/
def afterAd (d : Dir) (P : Profile) (s : State) : State :=
  { afterInit d P s with
    st := absorbAll P (famInit P (keyOf P s) (nonceOf P s)) (adOf s) ++ zeros (s.params.sMax - P.stateBytes)
    adOff := s.adLen
    phase := .msg }

/-- The state after the MSG phase (R214, R215). -/
def afterMsg (d : Dir) (P : Profile) (s : State) : State :=
  { afterAd d P s with
    buf := s.buf.writeBytes s.outPtr.toNat (messageResult d P s).2
    st := (messageResult d P s).1 ++ zeros (s.params.sMax - P.stateBytes)
    mOff := (afterCheck d P s).mLen
    phase := .final }

theorem afterCheck_frame (d : Dir) (P : Profile) (s : State) : EngineFrame s (afterCheck d P s) :=
  engineFrame_update s

theorem afterInit_frame (d : Dir) (P : Profile) (s : State) : EngineFrame s (afterInit d P s) :=
  (afterCheck_frame d P s).trans (engineFrame_update _)

theorem afterAd_frame (d : Dir) (P : Profile) (s : State) : EngineFrame s (afterAd d P s) :=
  (afterInit_frame d P s).trans (engineFrame_update _)

theorem afterMsg_frame (d : Dir) (P : Profile) (s : State) : EngineFrame s (afterMsg d P s) :=
  (afterAd_frame d P s).trans (engineFrame_update _)

section
variable {d : Dir} {P : Profile} {s : State}

theorem afterCheck_mLen (d : Dir) (P : Profile) (s : State) :
    (afterCheck d P s).mLen.toNat = messageLen d P s := by
  have hle := messageLen_le d P s
  have hlt := s.inLen.isLt
  exact Nat.mod_eq_of_lt (by omega)

theorem Underway.check_run (h : Underway d P s) (hphase : s.phase = .check) : BusyRun 1 s (afterCheck d P s) :=
  h.run_of_sequence ((Dir.sequence_check hphase).trans (aeadCheckStep_ok h.checked)) h.busy

theorem Underway.afterCheck_underway (h : Underway d P s) : Underway d P (afterCheck d P s) :=
  h.of_frame (afterCheck_frame d P s) h.bufWf h.busy rfl

theorem afterCheck_key (d : Dir) (hP : P.keyLen ≤ 32) : (afterCheck d P s).kl.take P.keyLen = keyOf P s := by
  have hlen := s.buf.readBytes_length s.keyPtr.toNat P.keyLen
  have htake := fit_take (n := 32) (hlen.trans_le hP)
  rwa [hlen] at htake

theorem afterCheck_nonce (d : Dir) (hP : P.nonceLen ≤ 32) : (afterCheck d P s).nl.take P.nonceLen = nonceOf P s := by
  have hlen := s.buf.readBytes_length s.noncePtr.toNat P.nonceLen
  have htake := fit_take (n := 32) (hlen.trans_le hP)
  rwa [hlen] at htake

theorem absorbFrom_length (P : Profile) (A : Bytes) (k off : Nat) {S : Bytes} (hS : S.length = P.stateBytes) :
    (absorbFrom P A k off S).length = P.stateBytes := by
  induction k generalizing off S with
  | zero => exact hS
  | succ k ih => exact ih _ (famAbsorb_length _ _ _ _ _)

theorem absorbAll_length (P : Profile) (K N A : Bytes) :
    (absorbAll P (famInit P K N) A).length = P.stateBytes :=
  absorbFrom_length P A _ 0 (famInit_length P K N)

/-- The state of a profile keeps its length, and the MSG phase gives as many bytes as it takes. -/
theorem msgFrom_length {X S : Bytes} {off k : Nat} (hk : PhaseRun X.length P.unitMsg .msg off k)
    (hS : S.length = P.stateBytes) :
    (msgFrom d P X k off S).1.length = P.stateBytes ∧ off + (msgFrom d P X k off S).2.length = X.length := by
  induction hk generalizing S with
  | @last off hlast =>
    rw [msgFrom_succ d P X 0 off S rfl rfl, msgFrom_zero, List.append_nil]
    exact ⟨msgUnit_fst_length _ _ _ _ _, by rw [msgUnit_snd_length, hlast]⟩
  | @more off k _ _ ih =>
    rw [msgFrom_succ d P X k off S rfl rfl, List.length_append, msgUnit_snd_length, ← Nat.add_assoc]
    exact ih (msgUnit_fst_length _ _ _ _ _)

theorem processMessage_length (hu : 1 ≤ P.unitMsg) (K N A X : Bytes) :
    (processMessage d P K N A X).1.length = P.stateBytes ∧ (processMessage d P K N A X).2.length = X.length := by
  have hlen := msgFrom_length (d := d) (phaseRun_zero hu X.length .msg) (absorbAll_length P K N A)
  rwa [Nat.zero_add] at hlen

/-- None of the four phases disturbs what keeps the command under way. -/
theorem Underway.afterInit_underway (h : Underway d P s) : Underway d P (afterInit d P s) :=
  h.afterCheck_underway.update h.bufWf

theorem Underway.afterAd_underway (h : Underway d P s) : Underway d P (afterAd d P s) :=
  h.afterInit_underway.update h.bufWf

theorem Underway.afterMsg_underway (h : Underway d P s) : Underway d P (afterMsg d P s) :=
  h.afterAd_underway.update (Mem.wf_writeBytes _ _ h.bufWf)

theorem Underway.init_run (h : Underway d P s) : BusyRun 1 (afterCheck d P s) (afterInit d P s) := by
  obtain ⟨-, -, -, -, -, hstate, -, hkey, -, hnonce, -⟩ := Profile.wf_ranges h.profile_wf
  have hu := h.afterCheck_underway
  have hfit : fit s.params.sMax (famInit P (keyOf P s) (nonceOf P s))
      = famInit P (keyOf P s) (nonceOf P s) ++ zeros (s.params.sMax - P.stateBytes) := by
    rw [fit_of_le (by rwa [famInit_length]), famInit_length]
  have hstep := (Dir.sequence_init (d := d) rfl).trans (initStep_eq hu.profile)
  rw [afterCheck_key d hkey, afterCheck_nonce d hnonce] at hstep
  refine hu.run_of_sequence (hstep.trans ?_) h.busy
  exact congrArg (fun st => Host.Outcome.next { afterCheck d P s with st := st, phase := .ad }) hfit

theorem Underway.ad_run (h : Underway d P s) :
    BusyRun (phaseSteps s.adLen.toNat P.unitAd) (afterInit d P s) (afterAd d P s) := by
  obtain ⟨hunit, -⟩ := Profile.wf_ranges h.profile_wf
  have hlen : (adOf s).length = s.adLen.toNat := Mem.readBytes_length _ _ _
  have hrun := h.afterInit_underway.absorb_run (phaseRun_zero hunit _ _) rfl hlen.symm rfl (restAt_zero _ _ _) rfl
    (famInit_length _ _ _)
  rw [hlen] at hrun
  rw [afterAd, absorbAll, hlen]
  exact hrun

theorem Underway.message_run (h : Underway d P s) :
    BusyRun (phaseSteps (messageLen d P s) P.unitMsg) (afterAd d P s) (afterMsg d P s) := by
  obtain ⟨-, -, hunit, -⟩ := Profile.wf_ranges h.profile_wf
  have hlen : (messageOf d P s).length = messageLen d P s := Mem.readBytes_length _ _ _
  have hmLen := afterCheck_mLen d P s
  have hrun := h.afterAd_underway.msg_run (phaseRun_zero hunit _ _) rfl hmLen (hmLen.trans hlen.symm) rfl
    (restAt_zero _ _ _) rfl (absorbAll_length _ _ _ _)
  rw [hlen] at hrun
  rw [afterMsg, messageResult, processMessage, hlen]
  exact hrun

/-- From CHECK to FINAL (R206, R233). -/
theorem Underway.run_to_final (h : Underway d P s) (hphase : s.phase = .check) :
    BusyRun (1 + 1 + phaseSteps s.adLen.toNat P.unitAd + phaseSteps (messageLen d P s) P.unitMsg) s (afterMsg d P s) :=
  (((h.check_run hphase).append h.init_run).append h.ad_run).append h.message_run

/-- `u` is where the command of `s` has come to when FINAL is due. -/
structure FinalDue (d : Dir) (P : Profile) (s u : State) : Prop where
  underway : Underway d P u
  phase : u.phase = .final
  frame : EngineFrame s u
  buf : u.buf = s.buf.writeBytes s.outPtr.toNat (messageResult d P s).2
  payload : (messageResult d P s).2.length = messageLen d P s
  mLen : u.mLen.toNat = messageLen d P s
  tag : computedTag P u = processTag d P (keyOf P s) (nonceOf P s) (adOf s) (messageOf d P s)
  ts : d = .dec → u.ts = fit Config.latchBytes (suppliedTagOf P s)

theorem Underway.afterMsg_computedTag (h : Underway d P s) :
    computedTag P (afterMsg d P s) = processTag d P (keyOf P s) (nonceOf P s) (adOf s) (messageOf d P s) := by
  obtain ⟨-, -, hunit, -, -, -, -, hkey, -, hnonce, -⟩ := Profile.wf_ranges h.profile_wf
  have hstate : (afterMsg d P s).st.take P.stateBytes = (messageResult d P s).1 :=
    List.take_left' (processMessage_length hunit _ _ _ _).1
  have hk : (afterMsg d P s).kl.take P.keyLen = keyOf P s := afterCheck_key d hkey
  have hn : (afterMsg d P s).nl.take P.nonceLen = nonceOf P s := afterCheck_nonce d hnonce
  rw [computedTag, hstate, hk, hn, processTag]

theorem Underway.messageResult_length (h : Underway d P s) : (messageResult d P s).2.length = messageLen d P s := by
  obtain ⟨-, -, hunit, -⟩ := Profile.wf_ranges h.profile_wf
  rw [(processMessage_length hunit _ _ _ _).2, Mem.readBytes_length]

theorem Underway.finalDue (h : Underway d P s) : FinalDue d P s (afterMsg d P s) where
  underway := h.afterMsg_underway
  phase := rfl
  frame := afterMsg_frame d P s
  buf := rfl
  payload := h.messageResult_length
  mLen := afterCheck_mLen d P s
  tag := h.afterMsg_computedTag
  ts := by
    rintro rfl
    rfl

end

/-! FINAL, VERIFY, SCRUB and WIPE (R220, R230, R252, R254). -/

/-- What a command leaves for the host: the output bytes, RESULT and DETAIL (R114, R118). -/
structure AeadOutcome where
  output : Bytes
  result : Result
  detail : Detail

/-- The mask VERIFY computes for DECRYPT (R252). -/
def tagMask (P : Profile) (K N A X T : Bytes) : Byte := ctMask (aeadDecParts P K N A X).2 T P.tagLen

/-- The outcome of ENCRYPT or DECRYPT from the bytes of its operands: key, nonce, associated data, message and, for
DECRYPT, the supplied tag (R233, R254). -/
def aeadOutcome (d : Dir) (P : Profile) (K N A X T : Bytes) : AeadOutcome :=
  match d with
  | .enc => { output := aeadEnc P K N A X, result := .ok, detail := .none }
  | .dec =>
    { output := (aeadDec P K N A X T).1
      result := scrubResult ((tagMask P K N A X T).getLsbD 0)
      detail := scrubDetail ((tagMask P K N A X T).getLsbD 0) }

/-- The outcome from the operands in BUF. -/
abbrev outcomeOf (d : Dir) (P : Profile) (s : State) : AeadOutcome :=
  aeadOutcome d P (keyOf P s) (nonceOf P s) (adOf s) (messageOf d P s) (suppliedTagOf P s)

/-- `s` with a command completed with an outcome: the output at OUT_PTR, every internal register 0 (R230, R277). -/
def complete (o : AeadOutcome) (s : State) : State :=
  wipe { s with
    buf := s.buf.writeBytes s.outPtr.toNat o.output
    outLen := BitVec.ofNat 32 o.output.length
    result := o.result
    detail := o.detail }

/-- `u` is where the command of `s` has come to when only WIPE is left to do. -/
structure WipeDue (d : Dir) (P : Profile) (o : AeadOutcome) (s u : State) : Prop where
  underway : Underway d P u
  phase : u.phase = .wipe
  frame : EngineFrame s u
  buf : u.buf = s.buf.writeBytes s.outPtr.toNat o.output
  outLen : u.outLen = BitVec.ofNat 32 o.output.length
  result : u.result = o.result
  detail : u.detail = o.detail

theorem WipeDue.step_eq {d : Dir} {P : Profile} {o : AeadOutcome} {s u : State} (h : WipeDue d P o s u) :
    step u = .next (complete o s) := by
  have hwipe : step u = .next (wipe u) := h.underway.step_eq.trans (Dir.sequence_wipe h.phase)
  have hframe := h.frame
  unfold EngineFrame at hframe
  rw [hwipe, complete, ← h.buf, ← h.outLen, ← h.result, ← h.detail, hframe]
  rfl

/-! The steps of FINAL, VERIFY and SCRUB. -/

section
variable {d : Dir} {P : Profile} {u : State}

theorem Underway.final_enc_run (h : Underway .enc P u) (hphase : u.phase = .final)
    (hmLen : u.mLen.toNat = messageLen .enc P u) :
    BusyRun 1 u { u with
      tc := fit Config.latchBytes (computedTag P u)
      buf := u.buf.writeBytes (u.outPtr.toNat + u.mLen.toNat) (computedTag P u)
      outLen := BitVec.ofNat 32 (u.mLen.toNat + P.tagLen)
      result := .ok
      detail := .none
      phase := .wipe } := by
  refine h.run_of_sequence ((Dir.sequence_final hphase).trans (finalStep_enc_eq h.profile ?_)) h.busy
  have hout : messageLen .enc P u + P.tagLen = 0 ∨
    u.outPtr.toNat + (messageLen .enc P u + P.tagLen) ≤ u.params.bufSize := h.output_inBuf
  show P.tagLen = 0 ∨ u.outPtr.toNat + u.mLen.toNat + P.tagLen ≤ u.params.bufSize
  omega

/-- FINAL and VERIFY of DECRYPT. -/
theorem Underway.verify_run (h : Underway .dec P u) (hphase : u.phase = .final) :
    BusyRun (1 + 1) u { u with
      tc := fit Config.latchBytes (computedTag P u)
      mask := ctMask (fit Config.latchBytes (computedTag P u)) u.ts P.tagLen
      phase := .scrub } := by
  have hfinal := h.run_of_sequence ((Dir.sequence_final hphase).trans (finalStep_dec_eq h.profile)) h.busy
  have hu : Underway .dec P { u with tc := fit Config.latchBytes (computedTag P u), phase := .verify } :=
    h.update h.bufWf
  exact hfinal.append (hu.run_of_sequence ((Dir.sequence_verify rfl).trans (verifyStep_eq hu.profile)) h.busy)

theorem Underway.scrub_run (h : Underway .dec P u) (hphase : u.phase = .scrub)
    (hmLen : u.mLen.toNat = messageLen .dec P u) :
    BusyRun 1 u { u with
      buf := u.buf.writeBytes u.outPtr.toNat ((u.buf.readBytes u.outPtr.toNat u.mLen.toNat).map (fun b => b &&& u.mask))
      outLen := u.mLen
      result := scrubResult (u.mask.getLsbD 0)
      detail := scrubDetail (u.mask.getLsbD 0)
      phase := .wipe } := by
  refine h.run_of_sequence ((Dir.sequence_scrub hphase).trans (scrubStep_eq ?_)) h.busy
  rw [hmLen]
  exact h.payload_inBuf

end

theorem byteAt_fit {n : Nat} {b : Bytes} (h : b.length ≤ n) (i : Nat) : byteAt (fit n b) i = byteAt b i := by
  rw [fit_of_le h, byteAt, byteAt]
  by_cases hi : i < b.length
  · rw [List.getD_append _ _ _ _ hi]
  · rw [List.getD_append_right _ _ _ _ (not_lt.mp hi), List.getD_eq_default b _ (not_lt.mp hi)]
    simp

theorem tagAcc_fit {n : Nat} {a b : Bytes} (ha : a.length ≤ n) (hb : b.length ≤ n) (t : Nat) :
    tagAcc (fit n a) (fit n b) t = tagAcc a b t := by
  induction t with
  | zero => rfl
  | succ t ih => rw [tagAcc, tagAcc, ih, byteAt_fit ha, byteAt_fit hb]

/-- The comparator sees the tags, not the zeros that fill the latches up (R63, R64). -/
theorem ctMask_fit {n : Nat} {a b : Bytes} (ha : a.length ≤ n) (hb : b.length ≤ n) (t : Nat) :
    ctMask (fit n a) (fit n b) t = ctMask a b t := by
  rw [ctMask, ctMask, tagAcc_fit ha hb]

theorem EngineFrame.outPtr_eq {s u : State} (h : EngineFrame s u) : u.outPtr = s.outPtr := by
  unfold EngineFrame at h
  rw [h]

theorem EngineFrame.messageLen_eq {s u : State} (h : EngineFrame s u) (d : Dir) (P : Profile) :
    messageLen d P u = messageLen d P s := by
  unfold EngineFrame at h
  rw [h]
  rfl

section
variable {P : Profile} {s u : State}

/-- FINAL of ENCRYPT puts the tag after the ciphertext (R220). -/
theorem FinalDue.finish_enc (h : FinalDue .enc P s u) :
    ∃ v : State, BusyRun 1 u v ∧ WipeDue .enc P (outcomeOf .enc P s) s v := by
  have hmLen : u.mLen.toNat = (messageResult .enc P s).2.length := h.mLen.trans h.payload.symm
  have houtput : (outcomeOf .enc P s).output = (messageResult .enc P s).2 ++ computedTag P u := by
    show aeadEnc P _ _ _ _ = _
    rw [aeadEnc, aeadEncParts_eq, h.tag]
  have hbuf : u.buf.writeBytes (u.outPtr.toNat + u.mLen.toNat) (computedTag P u)
      = s.buf.writeBytes s.outPtr.toNat (outcomeOf .enc P s).output := by
    rw [houtput, Mem.writeBytes_append, ← h.buf, hmLen, h.frame.outPtr_eq]
  refine ⟨_, h.underway.final_enc_run h.phase (h.mLen.trans (h.frame.messageLen_eq .enc P).symm), ?_⟩
  exact {
    underway := h.underway.update (Mem.wf_writeBytes _ _ h.underway.bufWf)
    phase := rfl
    frame := h.frame.trans (engineFrame_update u)
    buf := hbuf
    outLen := by rw [houtput, List.length_append, computedTag_length, hmLen]
    result := rfl
    detail := rfl }

/-- VERIFY of DECRYPT compares the computed tag with the supplied one (R252). -/
theorem FinalDue.tagMask_eq (h : FinalDue .dec P s u) :
    ctMask (fit Config.latchBytes (computedTag P u)) u.ts P.tagLen
      = tagMask P (keyOf P s) (nonceOf P s) (adOf s) (messageOf .dec P s) (suppliedTagOf P s) := by
  obtain ⟨-, -, -, -, -, -, -, -, -, -, -, htag⟩ := Profile.wf_ranges h.underway.profile_wf
  have hcomputed := (computedTag_length P u).trans_le htag
  have hsupplied := (s.buf.readBytes_length (suppliedTagPtr P s) P.tagLen).trans_le htag
  rw [tagMask, aeadDecParts_eq, ← h.tag, h.ts rfl]
  exact ctMask_fit hcomputed hsupplied P.tagLen

/-- SCRUB of DECRYPT masks the payload (R254). -/
theorem FinalDue.finish_dec (h : FinalDue .dec P s u) (hm : s.buf.wf = true) :
    ∃ v : State, BusyRun (1 + 2) u v ∧ WipeDue .dec P (outcomeOf .dec P s) s v := by
  have hmLen : u.mLen.toNat = (messageResult .dec P s).2.length := h.mLen.trans h.payload.symm
  have hverify := h.underway.verify_run h.phase
  rw [h.tagMask_eq] at hverify
  generalize hmask :
    tagMask P (keyOf P s) (nonceOf P s) (adOf s) (messageOf .dec P s) (suppliedTagOf P s) = M at hverify
  have houtcome : outcomeOf .dec P s = {
      output := (messageResult .dec P s).2.map (fun b => b &&& M)
      result := scrubResult (M.getLsbD 0)
      detail := scrubDetail (M.getLsbD 0) } := by
    rw [← hmask]
    rfl
  have hbuf : u.buf.writeBytes u.outPtr.toNat
      ((u.buf.readBytes u.outPtr.toNat u.mLen.toNat).map (fun b => b &&& M))
      = s.buf.writeBytes s.outPtr.toNat ((messageResult .dec P s).2.map (fun b => b &&& M)) := by
    rw [h.buf, h.frame.outPtr_eq, hmLen, Mem.readBytes_writeBytes_same _ _ hm]
    exact Mem.writeBytes_overwrite _ hm (List.length_map _).symm
  have hu : Underway .dec P { u with tc := fit Config.latchBytes (computedTag P u), mask := M, phase := .scrub } :=
    h.underway.update h.underway.bufWf
  have hscrub := hu.scrub_run rfl (h.mLen.trans (h.frame.messageLen_eq .dec P).symm)
  refine ⟨_, hverify.append hscrub, ?_⟩
  rw [houtcome]
  exact {
    underway := h.underway.update (Mem.wf_writeBytes _ _ h.underway.bufWf)
    phase := rfl
    frame := h.frame.trans (engineFrame_update u)
    buf := hbuf
    outLen := by rw [List.length_map, ← hmLen, ofNat_toNat_eq]
    result := rfl
    detail := rfl }

end

/-! A whole command (R233). -/

theorem decode_encode_instr (d : Dir) : decode (encode d.instr) = d.instr := by
  cases d <;> rfl

/-- The CMD write of ENCRYPT or DECRYPT that meets BUSY = 0 is accepted (R270). -/
theorem step_withCommand_aead (d : Dir) {s : State} (hb : s.busy = false) :
    step (s.withCommand d.instr) = .next (acceptCommand d.op (respond .written s)) := by
  have hwrite : writeReg s .cmd (encode d.instr) = .command (encode d.instr) s := by
    rw [writeReg, hb]
    rfl
  rw [State.withCommand, step_bus, hostTurn, busAccess_writeReg, hwrite]
  show exec (decode (encode d.instr)) (respond .written s) = _
  rw [decode_encode_instr]
  cases d <;> exact runCommand_idle hb

theorem underway_of_accepted {d : Dir} {P : Profile} {s : State} (hs : Ready s) (hp : AeadPasses d P s) :
    Underway d P (acceptCommand d.op (respond .written s)) := by
  obtain ⟨hparams, hm, -, hagenda⟩ := hs
  exact {
    params := hparams
    bufWf := hm
    busy := rfl
    op := rfl
    agenda := hagenda
    checked := aeadCheck_of_passes hparams hp }

/-- An ENCRYPT or DECRYPT that passes its checks completes with its outcome after the steps of R206, wherever R207 lets
its regions lie. -/
theorem aead_completes {d : Dir} {P : Profile} {s : State} (hs : Ready s) (hp : AeadPasses d P s) :
    CompletesIn (s.withCommand d.instr) (aeadSteps d P s) (complete (outcomeOf d P s) (respond .written s)) := by
  have ⟨_, hm, hb, _⟩ := hs
  have hu := underway_of_accepted hs hp
  have haccept := step_withCommand_aead d hb
  have hrun := hu.run_to_final rfl
  cases d with
  | enc =>
    obtain ⟨u, hfinish, hwipe⟩ := hu.finalDue.finish_enc
    exact completesIn_of_busyRun haccept (hrun.append hfinish) hwipe.step_eq rfl
  | dec =>
    obtain ⟨u, hfinish, hwipe⟩ := hu.finalDue.finish_dec hm
    exact completesIn_of_busyRun haccept (hrun.append hfinish) hwipe.step_eq rfl

/-! In place (R92). -/

section
variable {d : Dir} {P : Profile} {s s' : State}

theorem messageLen_congr (h : s'.inLen = s.inLen) : messageLen d P s' = messageLen d P s := by
  cases d <;> simp only [messageLen, h]

theorem aeadSteps_congr (had : s'.adLen = s.adLen) (hin : s'.inLen = s.inLen) : aeadSteps d P s' = aeadSteps d P s := by
  cases d <;> simp only [aeadSteps, had, hin]

/-- Equal input bytes have equal message bytes and, for DECRYPT, equal tags. -/
theorem outcomeOf_congr (hp : aeadCheck d s = .ok P) (hlen : s'.inLen = s.inLen) (hkey : keyOf P s' = keyOf P s)
    (hnonce : nonceOf P s' = nonceOf P s) (had : adOf s' = adOf s)
    (hin : s'.buf.readBytes s'.inPtr.toNat s'.inLen.toNat = s.buf.readBytes s.inPtr.toNat s.inLen.toNat) :
    outcomeOf d P s' = outcomeOf d P s := by
  have hm : messageLen d P s' = messageLen d P s := messageLen_congr hlen
  have hmessage : messageOf d P s' = messageOf d P s := by
    have hle := messageLen_le d P s
    rw [messageOf, messageOf, hm, ← Mem.take_readBytes _ _ hle, ← Mem.take_readBytes s.buf _ hle, ← hin, hlen]
  rw [outcomeOf, outcomeOf, hkey, hnonce, had, hmessage]
  cases d with
  | enc => rfl
  | dec =>
    obtain ⟨-, -, -, htag, -⟩ := aeadCheck_eq_ok.mp hp
    have hrest : s.inLen.toNat - messageLen .dec P s = P.tagLen := Nat.sub_sub_self (htag rfl)
    have hsupplied : suppliedTagOf P s' = suppliedTagOf P s := by
      have hle := messageLen_le .dec P s
      rw [suppliedTagOf, suppliedTagOf, suppliedTagPtr, suppliedTagPtr, hm, ← hrest, ← Mem.drop_readBytes _ _ hle,
        ← Mem.drop_readBytes s.buf _ hle, ← hin, hlen]
    rw [hsupplied]

end

/-- The output stands at OUT_PTR. -/
theorem readBytes_complete {s : State} (hm : s.buf.wf = true) {o : AeadOutcome} {n : Nat} (hn : n ≤ o.output.length) :
    (complete o s).buf.readBytes s.outPtr.toNat n = o.output.take n := by
  have hall : (complete o s).buf.readBytes s.outPtr.toNat o.output.length = o.output :=
    Mem.readBytes_writeBytes_same _ _ hm
  rw [← Mem.take_readBytes _ _ hn, hall]

/-- OUT_LEN names no byte beyond the output. -/
theorem complete_outLen_le (o : AeadOutcome) (s : State) : (complete o s).outLen.toNat ≤ o.output.length :=
  (BitVec.toNat_ofNat _ _).trans_le (Nat.mod_le _ _)

/-- Settles O53: each run completes with the outcome of its operand bytes, wherever its regions lie, and the operand bytes
of the two are the same. That one is in place matters only in `Underway.payload_order`, which every layout that passes
the checks meets. -/
theorem inPlace : Obligations.InPlace := by
  intro d P s s' hs hs' hp hp' _ hadLen hinLen hkey hnonce had hin
  have hsteps : aeadSteps d P s' = aeadSteps d P s := aeadSteps_congr hadLen hinLen
  have houtcome : outcomeOf d P s' = outcomeOf d P s :=
    outcomeOf_congr (aeadCheck_of_passes hs.1 hp) hinLen hkey hnonce had hin
  have hdone' := aead_completes hs' hp'
  rw [hsteps, houtcome] at hdone'
  refine ⟨_, _, _, aead_completes hs hp, hdone', rfl, rfl, rfl, ?_⟩
  have hn := complete_outLen_le (outcomeOf d P s) (respond .written s)
  have ⟨_, hm, _⟩ := hs
  have ⟨_, hm', _⟩ := hs'
  have hout := readBytes_complete (s := respond .written s) hm hn
  have hout' := readBytes_complete (s := respond .written s') hm' hn
  exact hout'.trans hout.symm

end Sys2Proof.Machine
end

/-! Prover's lemmas, 30_encoding.md: the decoder and the encoder undo each other, as words and as bytes (R110 to R113), and
a CMD write decodes only while BUSY = 0 (R113, R270). -/
section
namespace Sys2Proof

/-! The sixteen opcodes (R111). -/

theorem opcode_decodeOpcode : ∀ o : BitVec 4, (decodeOpcode o).opcode = o := by decide

theorem high_decodeOpcode : ∀ o : BitVec 4, (decodeOpcode o).high = 0#28 := by decide

theorem wf_decodeOpcode : ∀ o : BitVec 4, (decodeOpcode o).wf = true := by decide

/-! The fields of the command a word decodes to (R110, R112). -/

theorem high_decode (w : Word) : (decode w).high = w.extractLsb' 4 28 := by
  unfold decode
  split
  · next h => rw [high_decodeOpcode, h]
  · rfl

theorem opcode_decode (w : Word) : (decode w).opcode = w.extractLsb' 0 4 := by
  unfold decode
  split
  · exact opcode_decodeOpcode _
  · rfl

theorem wf_decode (w : Word) : (decode w).wf = true := by
  unfold decode
  split
  · exact wf_decodeOpcode _
  · next h => exact bne_iff_ne.mpr h

/-! The two inverse laws (R113). -/

theorem encode_decode (w : Word) : encode (decode w) = w := by
  rw [encode, high_decode, opcode_decode]
  exact BitVec.extractLsb'_append_extractLsb' (len := 4) (w := 28)

theorem decode_encode {i : Instr} (hi : i.wf = true) : decode (encode i) = i := by
  rw [decode, encode_high, encode_opcode]
  cases i with
  | reservedHigh high opcode => exact if_neg (bne_iff_ne.mp hi)
  | _ => rfl

theorem decode_eq_iff {w : Word} {i : Instr} (hi : i.wf = true) : decode w = i ↔ w = encode i := by
  constructor
  · rintro rfl
    exact (encode_decode w).symm
  · rintro rfl
    exact decode_encode hi

/-! The reserved words (R111, R112). -/

theorem toNat_encode (i : Instr) : (encode i).toNat = 16 * i.high.toNat + i.opcode.toNat := by
  rw [encode, BitVec.toNat_append, ← Nat.shiftLeft_add_eq_or_of_lt i.opcode.isLt, Nat.shiftLeft_eq, Nat.mul_comm]

theorem isReserved_iff {i : Instr} (hi : i.wf = true) : i.isReserved = true ↔ 7 ≤ (encode i).toNat := by
  cases i with
  | reservedHigh high opcode =>
    have hpos : high.toNat ≠ 0 := fun h => bne_iff_ne.mp hi (BitVec.eq_of_toNat_eq h)
    have hge : 7 ≤ (encode (.reservedHigh high opcode)).toNat := by
      rw [toNat_encode, Instr.high]
      omega
    exact iff_of_true rfl hge
  | _ => decide

/-! The bytes of a word (R83). -/

/-- The four bytes of a word, joined from the highest down. -/
theorem wordOfBytes_bytesOfWord (w : Word) :
    wordOfBytes (w.extractLsb' 0 8) (w.extractLsb' 8 8) (w.extractLsb' 16 8) (w.extractLsb' 24 8) = w := by
  have hhalf : w.extractLsb' 24 8 ++ w.extractLsb' 16 8 = w.extractLsb' 16 16 :=
    BitVec.extractLsb'_append_extractLsb'_eq_extractLsb' rfl
  have hthree : w.extractLsb' 16 16 ++ w.extractLsb' 8 8 = w.extractLsb' 8 24 :=
    BitVec.extractLsb'_append_extractLsb'_eq_extractLsb' rfl
  rw [wordOfBytes, hhalf, hthree]
  exact BitVec.extractLsb'_append_extractLsb' (len := 8) (w := 24)

theorem decodeBytes_bytesOfWord (w : Word) (rest : Bytes) :
    decodeBytes (bytesOfWord w ++ rest) = .ok (decode w, rest) := by
  simp only [bytesOfWord, List.cons_append, List.nil_append, decodeBytes, wordOfBytes_bytesOfWord]

theorem decodeBytes_encodeBytes {i : Instr} (hi : i.wf = true) (rest : Bytes) :
    decodeBytes (encodeBytes i ++ rest) = .ok (i, rest) := by
  rw [encodeBytes, decodeBytes_bytesOfWord, decode_encode hi]

end Sys2Proof

namespace Sys2Proof.Machine

/-! A CMD write (R270, R271). -/

theorem step_writeCmd_busy {s : State} (hb : s.busy = true) (w : Word) :
    step (s.withEvent (.bus (regTxn s .cmd (.write w)))) = .next (respond .written (dropTransaction s)) :=
  step_writeReg (writeReg_busy hb (.inr rfl) w)

theorem step_writeCmd_idle {s : State} (hb : s.busy = false) (w : Word) :
    step (s.withEvent (.bus (regTxn s .cmd (.write w)))) = exec (decode w) (respond .written s) := by
  have hwrite : writeReg s .cmd w = .command w s := by rw [writeReg, hb]; rfl
  rw [step_bus, hostTurn, busAccess_writeReg, hwrite]
  rfl

/-! The statements. -/

/-- Settles O3: each is the encoding, as a word or as bytes, of the command it names. -/
theorem writtenWords : Obligations.WrittenWords :=
  ⟨decode_encode (i := .nop) rfl, decode_encode (i := .encrypt) rfl, decode_encode (i := .decrypt) rfl,
    decode_encode (i := .primPerm) rfl, decode_encode (i := .zeroize) rfl, decode_encode (i := .reservedHash) rfl,
    decode_encode (i := .reservedF) rfl, decode_encode (i := .reservedHigh 1#28 0#4) rfl,
    decodeBytes_encodeBytes (i := .primEnc) rfl [], decodeBytes_encodeBytes (i := .reservedHigh 0x8000000#28 4#4) rfl []⟩

/-- Settles O4: a word's bytes join to the word, and the write of CMD at BUSY = 0 runs what it decodes to. -/
theorem stepRunsTheWrittenCommand : Obligations.StepRunsTheWrittenCommand :=
  fun _ w hb => ⟨decodeBytes_bytesOfWord w [], step_writeCmd_idle hb w⟩

/-- Settles O2: a command is decoded from its own encoding only, and the dropped write is the busy rule of CMD. -/
theorem decodingIsTotal : Obligations.DecodingIsTotal := by
  refine ⟨fun w => ⟨wf_decode w, encode_decode w, decode_eq_iff rfl, decode_eq_iff rfl, decode_eq_iff rfl,
    decode_eq_iff rfl, decode_eq_iff rfl, decode_eq_iff rfl, decode_eq_iff rfl, ?_⟩, fun _ w hb => step_writeCmd_busy hb w⟩
  rw [isReserved_iff (wf_decode w), encode_decode]

/-- Settles O1: the fields of a command's word are the command's own, and its bytes are those of its word. -/
theorem decodeOfEncode : Obligations.DecodeOfEncode :=
  fun _ hi => ⟨decode_encode hi, decodeBytes_encodeBytes hi⟩

end Sys2Proof.Machine
end

/-! Prover's lemmas, 40_primitive.md: the rounds of SKINNY-128-128 undone one by one, and law PRIM-INV (R142, R147,
R148, R156). -/
section
namespace Sys2Proof.Machine

/-! SubCells: each step of S8 is undone by its own inverse (R156). -/

theorem sboxXor_sboxXor : ∀ x : Byte, sboxXor (sboxXor x) = x := by decide

theorem sboxPermInv_sboxPerm : ∀ x : Byte, sboxPermInv (sboxPerm x) = x := by decide

theorem sboxSwap_sboxSwap : ∀ x : Byte, sboxSwap (sboxSwap x) = x := by decide

theorem skinnySboxInv_skinnySbox (x : Byte) : skinnySboxInv (skinnySbox x) = x := by
  simp only [skinnySboxInv, skinnySbox, sboxSwap_sboxSwap, sboxXor_sboxXor, sboxPermInv_sboxPerm]

/-! AddConstants and AddRoundTweakey: xor with a string of the state's length. -/

theorem xorBytes_comm (a b : Bytes) : xorBytes a b = xorBytes b a :=
  List.zipWith_comm_of_comm BitVec.xor_comm

theorem xorBytes_assoc (a b c : Bytes) : xorBytes (xorBytes a b) c = xorBytes a (xorBytes b c) := by
  refine List.ext_getElem (by simp [Nat.min_assoc]) (fun i _ _ => ?_)
  simp [xorBytes, BitVec.xor_assoc]

theorem xorBytes_left_comm (a b c : Bytes) : xorBytes a (xorBytes b c) = xorBytes b (xorBytes a c) := by
  rw [← xorBytes_assoc, xorBytes_comm a b, xorBytes_assoc]

theorem xorBytes_xorBytes_cancel {a b : Bytes} (h : a.length = b.length) : xorBytes (xorBytes a b) b = a := by
  rw [xorBytes_comm _ b, xorBytes_comm a b, xorBytes_cancel b a h.le]

theorem skinnyConstants_length (rc : BitVec 6) : (skinnyConstants rc).length = 16 := rfl

theorem skinnyTweakeyBytes_length {tk : Bytes} (h : tk.length = 16) : (skinnyTweakeyBytes tk).length = 16 := by
  simp [skinnyTweakeyBytes, h]

/-! ShiftRows and the tweakey permutation: the bytes of a string at a list of indices. -/

@[simp] theorem permuteBytes_length (idx : List Nat) (b : Bytes) : (permuteBytes idx b).length = idx.length :=
  List.length_map _

theorem byteAt_permuteBytes {idx : List Nat} {i : Nat} (h : i < idx.length) (b : Bytes) :
    byteAt (permuteBytes idx b) i = byteAt b (idx.getD i 0) := by
  simp [byteAt, permuteBytes, h]

theorem permuteBytes_permuteBytes {idx idx' : List Nat} (h : ∀ i ∈ idx', i < idx.length) (b : Bytes) :
    permuteBytes idx' (permuteBytes idx b) = permuteBytes (idx'.map (fun i => idx.getD i 0)) b := by
  refine Eq.trans ?_ (List.map_map).symm
  exact List.map_congr_left (fun i hi => byteAt_permuteBytes (h i hi) b)

theorem permuteBytes_range (b : Bytes) : permuteBytes (List.range b.length) b = b :=
  List.ext_getElem (by simp) (fun i _ hi => by simp [permuteBytes, byteAt, hi])

theorem skinnyShiftRowsInv_skinnyShiftRows {s : Bytes} (h : s.length = 16) :
    skinnyShiftRowsInv (skinnyShiftRows s) = s := by
  have hid : skinnyShiftRowsInv (skinnyShiftRows s) = permuteBytes (List.range 16) s :=
    permuteBytes_permuteBytes (by decide) s
  rw [hid, ← h, permuteBytes_range]

/-! MixColumns, on the four rows of the state. -/

theorem skinnyMixColumns_rows {a b d e : Bytes} (ha : a.length = 4) (hb : b.length = 4) (hd : d.length = 4)
    (he : e.length = 4) :
    skinnyMixColumns (a ++ b ++ d ++ e) =
      xorBytes (xorBytes a d) e ++ a ++ xorBytes b d ++ xorBytes a d := by
  simp [skinnyMixColumns, ha, hb, hd, he, List.drop_append, List.take_of_length_le, List.drop_eq_nil_of_le]

theorem skinnyMixColumnsInv_rows {p q r t : Bytes} (hp : p.length = 4) (hq : q.length = 4) (hr : r.length = 4)
    (ht : t.length = 4) :
    skinnyMixColumnsInv (p ++ q ++ r ++ t) =
      q ++ xorBytes (xorBytes q r) t ++ xorBytes q t ++ xorBytes p t := by
  simp [skinnyMixColumnsInv, hp, hq, hr, ht, List.drop_append, List.take_of_length_le, List.drop_eq_nil_of_le]

theorem rows_append {s : Bytes} (h : s.length = 16) :
    s.take 4 ++ (s.drop 4).take 4 ++ (s.drop 8).take 4 ++ (s.drop 12).take 4 = s := by
  rw [← List.take_add, ← List.take_add, ← List.take_add, List.take_of_length_le h.le]

/-- Each row comes back as the sum in which everything else stands twice. -/
theorem skinnyMixColumnsInv_skinnyMixColumns {s : Bytes} (h : s.length = 16) :
    skinnyMixColumnsInv (skinnyMixColumns s) = s := by
  obtain ⟨a, b, d, e, ha, hb, hd, he, rfl⟩ : ∃ a b d e : Bytes,
      a.length = 4 ∧ b.length = 4 ∧ d.length = 4 ∧ e.length = 4 ∧ s = a ++ b ++ d ++ e :=
    ⟨_, _, _, _, by simp [h], by simp [h], by simp [h], by simp [h], (rows_append h).symm⟩
  have hsum : (xorBytes a d).length = 4 := by rw [xorBytes_length, ha, hd, Nat.min_self]
  have hrow2 : xorBytes (xorBytes a (xorBytes b d)) (xorBytes a d) = b := by
    rw [xorBytes_left_comm a b d, xorBytes_xorBytes_cancel (hb.trans hsum.symm)]
  have hrow3 : xorBytes a (xorBytes a d) = d := xorBytes_cancel a d (hd.trans ha.symm).le
  have hrow4 : xorBytes (xorBytes (xorBytes a d) e) (xorBytes a d) = e := by
    rw [xorBytes_comm _ (xorBytes a d), xorBytes_cancel _ _ (he.trans hsum.symm).le]
  rw [skinnyMixColumns_rows ha hb hd he, skinnyMixColumnsInv_rows (by simp [hsum, he]) ha (by simp [hb, hd]) hsum,
    hrow2, hrow3, hrow4]

theorem skinnyMixColumns_length {s : Bytes} (h : s.length = 16) : (skinnyMixColumns s).length = 16 := by
  simp [skinnyMixColumns, h]

/-! The rounds (R156). -/

theorem skinnyTweakeyPerm_length (tk : Bytes) : (skinnyTweakeyPerm tk).length = 16 := rfl

theorem skinnyRound_length (rc : BitVec 6) (tk s : Bytes) : (skinnyRound rc tk s).length = 16 :=
  skinnyMixColumns_length (permuteBytes_length _ _)

theorem skinnyRoundInv_skinnyRound (rc : BitVec 6) {tk s : Bytes} (htk : tk.length = 16) (hs : s.length = 16) :
    skinnyRoundInv rc tk (skinnyRound rc tk s) = s := by
  have hcells : (s.map skinnySbox).length = 16 := (List.length_map _).trans hs
  have hconst : (xorBytes (s.map skinnySbox) (skinnyConstants rc)).length = 16 := by
    rw [xorBytes_length, hcells, skinnyConstants_length, Nat.min_self]
  have hadd : (xorBytes (xorBytes (s.map skinnySbox) (skinnyConstants rc)) (skinnyTweakeyBytes tk)).length = 16 := by
    rw [xorBytes_length, hconst, skinnyTweakeyBytes_length htk, Nat.min_self]
  rw [skinnyRoundInv, skinnyRound, skinnyMixColumnsInv_skinnyMixColumns (permuteBytes_length _ _),
    skinnyShiftRowsInv_skinnyShiftRows hadd,
    xorBytes_xorBytes_cancel (hconst.trans (skinnyTweakeyBytes_length htk).symm), xorBytes_xorBytes_cancel hcells,
    List.map_map]
  exact (List.map_congr_left (fun x _ => skinnySboxInv_skinnySbox x)).trans (List.map_id s)

theorem skinnyRoundsInv_skinnyRounds (n : Nat) (rc : BitVec 6) {tk s : Bytes} (htk : tk.length = 16)
    (hs : s.length = 16) : skinnyRoundsInv n rc tk (skinnyRounds n rc tk s) = s := by
  induction n generalizing rc tk s with
  | zero => rfl
  | succ n ih =>
    rw [skinnyRounds, skinnyRoundsInv, ih _ (skinnyTweakeyPerm_length tk) (skinnyRound_length _ _ _)]
    exact skinnyRoundInv_skinnyRound _ htk hs

theorem skinnyRounds_length (n : Nat) (rc : BitVec 6) (tk : Bytes) {s : Bytes} (hs : s.length = 16) :
    (skinnyRounds n rc tk s).length = 16 := by
  induction n generalizing rc tk s with
  | zero => exact hs
  | succ n ih => exact ih _ _ (skinnyRound_length _ _ _)

theorem skinnyEnc_length (k : Bytes) {b : Bytes} (hb : b.length = 16) : (skinnyEnc k b).length = 16 :=
  skinnyRounds_length skinnyFullRounds 0#6 k hb

theorem skinnyDec_skinnyEnc {k b : Bytes} (hk : k.length = 16) (hb : b.length = 16) :
    skinnyDec k (skinnyEnc k b) = b :=
  skinnyRoundsInv_skinnyRounds skinnyFullRounds 0#6 hk hb

/-! Law PRIM-INV (R142). -/

/-- The id of SKINNY-128-128 admits one descriptor (R147). -/
theorem PrimDesc.eq_skinny {D : PrimDesc} (h : D.wf = true) (hid : D.id = Config.skinnyId) : D = Config.skinnyDesc := by
  simp only [PrimDesc.wf, Bool.and_eq_true] at h
  obtain ⟨-, hskinny⟩ := h
  simpa [hid] using hskinny

theorem primDecBlock_primEncBlock_of_skinny {D : PrimDesc} {k b : Bytes} {r start : Nat} (h : D.wf = true)
    (hs : skinnyFull D r start = true) (hk : k.length = D.keyBytes) (hb : b.length = D.blockBytes) :
    primDecBlock D k r start (primEncBlock D k r start b) = b := by
  have hid : D.id = Config.skinnyId := by
    simp only [skinnyFull, Bool.and_eq_true, beq_iff_eq] at hs
    exact hs.1.1
  obtain rfl := PrimDesc.eq_skinny h hid
  have henc : primEncBlock Config.skinnyDesc k r start b = skinnyEnc k b := by
    rw [primEncBlock, if_pos hs]
    exact fit_of_length (skinnyEnc_length k hb)
  rw [henc, primDecBlock, if_pos hs, skinnyDec_skinnyEnc hk hb, fit_of_length hb]

/-- Settles O58: the full SKINNY-128-128 is undone round by round, and every other call is the free permutation. -/
theorem primInverse : Obligations.PrimInverse := by
  intro D hwf hdec r start hlegal k b hk hb
  cases hs : skinnyFull D r start with
  | true => exact primDecBlock_primEncBlock_of_skinny hwf hs hk hb
  | false => exact primDecBlock_primEncBlock_of_free hs (by rw [invertible, hdec, hlegal]; rfl) hb

/-- Settles O21: the full cipher is SKINNY-128-128's legal call with the default rounds. -/
theorem skinnyDecrypts : Obligations.SkinnyDecrypts :=
  fun k b hk hb => primInverse Config.skinnyDesc rfl rfl Config.skinnyDesc.defaultRounds 0 rfl k b hk hb

/-- Settles O20: the forty rounds, computed. -/
theorem skinnyAnchor : Obligations.SkinnyAnchor := by
  unfold Obligations.SkinnyAnchor
  decide +kernel

end Sys2Proof.Machine
end

/-! Prover's lemmas, 40_primitive.md: the raw primitive commands, step by step and end to end (R150 to R155). -/
section
namespace Sys2Proof.Machine

/-! The checks as the statements list them (R150, R316). -/

/-- The list of the checks with the machine's own terms: the three of them that R150 makes on the primitive are one. -/
theorem firstFailing_primFailures (o : PrimOp) (D : PrimDesc) (s : State) :
    firstFailing (primFailures o D s) = firstFailing
      [(.badPrim, !primFits o D),
       (.badRounds, !legalRounds D (roundCount D s) s.start.toNat),
       (.badKeyLen, decide (o ≠ .perm ∧ s.keyLen.toNat ≠ D.keyBytes)),
       (.badBlockLen, decide (s.inLen.toNat ≠ D.blockBytes)),
       (.bounds, decide (o ≠ .perm ∧ regionOutside s s.keyPtr D.keyBytes)),
       (.bounds, decide (s.params.bufSize < s.inPtr.toNat + D.blockBytes)),
       (.bounds, decide (s.params.bufSize < s.outPtr.toNat + D.blockBytes))] := by
  have hrounds (r : Nat) :
      (!legalRounds D r s.start.toNat) = (decide (r < 1) || decide (s.start.toNat + r > D.maxRounds)) := by
    simp [legalRounds, ← decide_not]
  rw [hrounds]
  cases o <;> simp [primFailures, firstFailing, primFits, outside_eq, roundCount]

/-- The answer of a chain of checks: the first failing one's code, or the descriptor. -/
def checkAnswer (D : PrimDesc) : Option Detail → Except Detail PrimDesc
  | some e => .error e
  | none => .ok D

theorem primCheck_eq_firstFailing {o : PrimOp} {s : State} {D : PrimDesc} (h : primOf s = some D) :
    primCheck o s = checkAnswer D (firstFailing (primFailures o D s)) := by
  rw [firstFailing_primFailures]
  simp only [primCheck, h, firstFailing, apply_ite (checkAnswer D), Bool.not_eq_true', decide_eq_true_eq]
  rfl

theorem primCheck_of_passes {o : PrimOp} {s : State} {D : PrimDesc} (hp : s.params.wf = true) (h : PrimPasses o D s) :
    primCheck o s = .ok D := by
  obtain ⟨hsel, hnone⟩ := h
  rw [primCheck_eq_firstFailing (primOf_of_selects hp hsel), hnone]
  rfl

/-! The step PHASE selects (R206). -/

section
variable {o : PrimOp} {s : State}

theorem primSequence_check (h : s.phase = .check) : primSequence o s = primCheckStep o s := by
  rw [primSequence, h]

theorem primSequence_prim (h : s.phase = .prim) : primSequence o s = primStep o s := by
  rw [primSequence, h]

theorem primSequence_wipe (h : s.phase = .wipe) : primSequence o s = .next (wipe s) := by
  rw [primSequence, h]

/-- While a raw primitive command runs, exec of it is the sequencer's step (R206). -/
theorem exec_primInstr {ph : Phase} (h : Running o.instr ph s) : exec o.instr s = primSequence o s := by
  obtain ⟨hbusy, hop, -⟩ := h
  cases o <;> exact runCommand_busy hbusy hop

theorem primCheckStep_error {e : Detail} (h : primCheck o s = .error e) :
    primCheckStep o s = .next (raiseInvalidParameters e s) := by
  rw [primCheckStep, h]

theorem primCheckStep_ok {D : PrimDesc} (h : primCheck o s = .ok D) :
    primCheckStep o s = .next { s with phase := .prim } := by
  rw [primCheckStep, h]

end

/-- Settles O18: exec is the CHECK step, and `primCheck` answers the first failing check of the list. -/
theorem primCheck_holds : Obligations.PrimCheck := by
  intro o s hp hrun
  have ⟨_, _, hphase⟩ := hrun
  have hstep : exec o.instr s = primCheckStep o s := (exec_primInstr hrun).trans (primSequence_check hphase)
  refine ⟨fun hnone => ?_, fun D hsel => ?_⟩
  · have hbad : primCheck o s = .error .badPrim := by
      rw [primCheck, primOf_eq_none hnone]
    exact hstep.trans (primCheckStep_error hbad)
  · have hcheck := primCheck_eq_firstFailing (o := o) (primOf_of_selects hp hsel)
    refine ⟨fun e he => ?_, fun hpass => ?_⟩
    · rw [he] at hcheck
      exact hstep.trans (primCheckStep_error hcheck)
    · rw [hpass] at hcheck
      exact hstep.trans (primCheckStep_ok hcheck)

/-! The PRIM step (R152). -/

/-- The primitive's output block for the operands in BUF: what the statements write out (R152). -/
def primBlock (o : PrimOp) (D : PrimDesc) (s : State) : Bytes :=
  primOutput o D (s.buf.readBytes s.keyPtr.toNat D.keyBytes) (s.buf.readBytes s.inPtr.toNat D.blockBytes) s

/-- PRIM_PERM reads no key, and its output uses none (R152). -/
theorem primOutput_readKey (o : PrimOp) (D : PrimDesc) (s : State) :
    primOutput o D (s.buf.readBytes s.keyPtr.toNat (primKeyBytes o D)) (s.buf.readBytes s.inPtr.toNat D.blockBytes) s
      = primBlock o D s := by
  cases o <;> rfl

@[simp] theorem primBlock_length (o : PrimOp) (D : PrimDesc) (s : State) : (primBlock o D s).length = D.blockBytes :=
  primOutput_length _ _ _ _ _

/-- The state after PRIM (R152). -/
def afterPrim (o : PrimOp) (D : PrimDesc) (s : State) : State :=
  { s with
    buf := s.buf.writeBytes s.outPtr.toNat (primBlock o D s)
    outLen := BitVec.ofNat 32 D.blockBytes
    result := .ok
    detail := .none
    phase := .wipe }

theorem inBuf_primKey {o : PrimOp} {D : PrimDesc} {s : State} (h : o ≠ .perm → inBuf s s.keyPtr.toNat D.keyBytes) :
    inBuf s s.keyPtr.toNat (primKeyBytes o D) := by
  cases o with
  | enc => exact h (by decide)
  | dec => exact h (by decide)
  | perm => exact .inl rfl

theorem primStep_eq_afterPrim {o : PrimOp} {s : State} {D : PrimDesc} (h : primOf s = some D)
    (hk : o ≠ .perm → inBuf s s.keyPtr.toNat D.keyBytes) (hi : inBuf s s.inPtr.toNat D.blockBytes)
    (ho : inBuf s s.outPtr.toNat D.blockBytes) : primStep o s = .next (afterPrim o D s) := by
  rw [primStep_eq h hi (inBuf_primKey hk) ho, primOutput_readKey]
  rfl

section
variable {s : State} (hm : s.buf.wf = true) (o : PrimOp) (D : PrimDesc)
include hm

/-- The output block stands at OUT_PTR, whatever it is written over (R151). -/
theorem readBytes_afterPrim : (afterPrim o D s).buf.readBytes s.outPtr.toNat D.blockBytes = primBlock o D s := by
  rw [← primBlock_length o D s]
  exact Mem.readBytes_writeBytes_same _ _ hm

theorem sameOutside_afterPrim : SameOutside s (afterPrim o D s) s.outPtr.toNat D.blockBytes :=
  fun b hb => Mem.read_writeBytes_outside hm (by rwa [primBlock_length])

end

/-- OUT_LEN has room for a block (R140). -/
theorem outLen_afterPrim {D : PrimDesc} (h : D.wf = true) (o : PrimOp) (s : State) :
    (afterPrim o D s).outLen.toNat = D.blockBytes := by
  obtain ⟨-, hblock, -⟩ := PrimDesc.wf_ranges h
  exact Nat.mod_eq_of_lt (by omega)

/-- Settles O19: exec is the PRIM step, which leaves `afterPrim`. -/
theorem primStep_holds : Obligations.PrimStep := by
  intro o D s hp hm hsel hrun hin hout hkey
  have ⟨_, _, hphase⟩ := hrun
  have ⟨hmem, _⟩ := hsel
  have hstep : exec o.instr s = primStep o s := (exec_primInstr hrun).trans (primSequence_prim hphase)
  rw [hstep, primStep_eq_afterPrim (primOf_of_selects hp hsel) hkey (.inr hin) (.inr hout)]
  refine ⟨afterPrim o D s, rfl, ?_, sameOutside_afterPrim hm o D,
    outLen_afterPrim (prim_wf_of_params hp hmem) o s, rfl⟩
  rw [readBytes_afterPrim hm]
  cases o <;> rfl

/-! A whole command (R153 to R155). -/

/-- The CMD write of a raw primitive command that meets BUSY = 0 is accepted (R270). -/
theorem step_withCommand_prim (o : PrimOp) {s : State} (hb : s.busy = false) :
    step (s.withCommand o.instr) = .next (acceptCommand o.op (respond .written s)) := by
  have hwf : o.instr.wf = true := by cases o <;> rfl
  refine (step_writeCmd_idle hb _).trans ?_
  rw [decode_encode hwf]
  cases o <;> exact runCommand_idle hb

/-- With no event pending, the machine's step is the running command's (R206). -/
theorem step_prim {o : PrimOp} {s : State} (hb : s.busy = true) (hop : s.op = o.op) (hagenda : s.agenda = []) :
    step s = primSequence o s := by
  rw [step, hagenda]
  refine (sequencerTurn_busy hb).trans ?_
  rw [hop]
  cases o <;> rfl

section
variable {o : PrimOp} {D : PrimDesc} {u : State}

/-- A command accepted with its checks passing takes the steps CHECK and PRIM (R206). -/
theorem prim_run (hb : u.busy = true) (hop : u.op = o.op) (hagenda : u.agenda = []) (hphase : u.phase = .check)
    (hchecked : primCheck o u = .ok D) : BusyRun (1 + 1) u (afterPrim o D u) := by
  obtain ⟨hprim, -, -, -, -, -, hkey, hin, hout⟩ := primCheck_eq_ok.mp hchecked
  have hcheck : step u = .next { u with phase := .prim } :=
    (step_prim hb hop hagenda).trans ((primSequence_check hphase).trans (primCheckStep_ok hchecked))
  have hstep : step { u with phase := .prim } = .next (afterPrim o D u) :=
    (step_prim (s := { u with phase := .prim }) hb hop hagenda).trans ((primSequence_prim rfl).trans
      (primStep_eq_afterPrim (s := { u with phase := .prim }) hprim (fun ho => inBuf_of_region (hkey ho)) (.inr hin)
        (.inr hout)))
  exact (BusyRun.single hb hcheck hb).append (.single hb hstep hb)

theorem step_afterPrim (hb : u.busy = true) (hop : u.op = o.op) (hagenda : u.agenda = []) :
    step (afterPrim o D u) = .next (wipe (afterPrim o D u)) :=
  (step_prim (s := afterPrim o D u) hb hop hagenda).trans (primSequence_wipe rfl)

end

/-- A raw primitive command whose checks pass completes after CHECK, PRIM and WIPE (R206). -/
theorem prim_completes {o : PrimOp} {s : State} {D : PrimDesc} (hs : Ready s) (hpass : PrimPasses o D s) :
    CompletesIn (s.withCommand o.instr) 3 (wipe (afterPrim o D (respond .written s))) := by
  obtain ⟨hp, -, hidle, hagenda⟩ := hs
  have hchecked : primCheck o (acceptCommand o.op (respond .written s)) = .ok D := primCheck_of_passes hp hpass
  exact completesIn_of_busyRun (step_withCommand_prim o hidle) (prim_run rfl rfl hagenda rfl hchecked)
    (step_afterPrim rfl rfl hagenda) rfl

/-- Settles O54: the command ends in `afterPrim` wiped, in which the block of the bytes before stands at OUT_PTR. -/
theorem primCompletes : Obligations.PrimCompletes := by
  intro o s D hs hpass
  have ⟨hp, hm, _⟩ := hs
  have ⟨⟨hmem, _⟩, _⟩ := hpass
  refine ⟨wipe (afterPrim o D (respond .written s)), prim_completes hs hpass, ?_,
    sameOutside_afterPrim (s := respond .written s) hm o D, rfl, rfl,
    outLen_afterPrim (prim_wf_of_params hp hmem) o (respond .written s), ?_, rfl⟩
  · refine (readBytes_afterPrim (s := respond .written s) hm o D).trans ?_
    cases o <;> rfl
  · exact ⟨⟨rfl, rfl, rfl, rfl, rfl, rfl, rfl, rfl, rfl⟩, rfl⟩

/-! PRIM_DEC after PRIM_ENC (R154). -/

/-- The check of PRIM_DEC passes only where law PRIM-INV speaks (R142, R150). -/
theorem primInv_applies {s : State} {D : PrimDesc} (h : primCheck .dec s = .ok D) :
    D.hasDec = true ∧ legalRounds D (roundCount D s) s.start.toNat = true := by
  obtain ⟨-, hfits, hpos, hmax, -⟩ := primCheck_eq_ok.mp h
  have ⟨_, hdec⟩ : D.kind = .blockCipher ∧ D.hasDec = true := by simpa [primFits] using hfits
  exact ⟨hdec, legalRounds_eq_true.mpr ⟨hpos, hmax⟩⟩

/-- Settles O59: the run of O54 writes the decryption of an encryption, which law PRIM-INV undoes. -/
theorem primDecUndoesPrimEnc : Obligations.PrimDecUndoesPrimEnc := by
  intro s D X hs hpass hX hin
  have ⟨hp, _⟩ := hs
  have ⟨⟨hmem, _⟩, _⟩ := hpass
  obtain ⟨hdec, hlegal⟩ := primInv_applies (primCheck_of_passes hp hpass)
  have hundo := primInverse D (prim_wf_of_params hp hmem) hdec _ _ hlegal _ X
    (s.buf.readBytes_length s.keyPtr.toNat D.keyBytes) hX
  obtain ⟨t, hrun, hout, hframe, hdone⟩ := primCompletes .dec s D hs hpass
  refine ⟨t, hrun, hout.trans ?_, hframe, hdone⟩
  dsimp only
  rw [hin]
  exact hundo

end Sys2Proof.Machine
end

/-! Prover's lemmas, 41_padding.md: the padded block byte by byte, the classes of one phase, and domain separation
(R170, R172, R174, R175). -/
section
namespace Sys2Proof.Machine

/-! The bytes of a string of zeros and of a concatenation. -/

theorem byteAt_append_right {x : Bytes} (y : Bytes) {k : Nat} (h : x.length ≤ k) :
    byteAt (x ++ y) k = byteAt y (k - x.length) :=
  List.getD_append_right x y _ k h

theorem byteAt_append_left {x : Bytes} (y : Bytes) {k : Nat} (h : k < x.length) : byteAt (x ++ y) k = byteAt x k :=
  List.getD_append x y _ k h

/-- An index past the end reads 0 as well, so no bound on `k` is needed. -/
@[simp] theorem byteAt_zeros (n k : Nat) : byteAt (zeros n) k = 0x00#8 := by
  by_cases h : k < n
  · exact List.getD_replicate _ h
  · exact List.getD_eq_default _ _ (by simpa using h)

/-! The padded block (R172). -/

theorem pad_of_length_eq {x : Bytes} {u : Nat} (mode : PadMode) (h : x.length = u) : pad x u mode = x :=
  if_pos h

/-- The bytes the padding inserter adds to a block of `n < u` bytes. -/
def padding (n u : Nat) : PadMode → Bytes
  | .marker80 => 0x80#8 :: zeros (u - n - 1)
  | .lengthByte => zeros (u - n - 1) ++ [BitVec.ofNat 8 n]
  | .laneXor => zeros (u - n)

theorem pad_of_length_ne {x : Bytes} {u : Nat} (mode : PadMode) (h : x.length ≠ u) :
    pad x u mode = x ++ padding x.length u mode := by
  cases mode with
  | marker80 => exact if_neg h
  | lengthByte => exact (if_neg h).trans (List.append_assoc _ _ _)
  | laneXor => exact if_neg h

theorem pad_take (x : Bytes) (u : Nat) (mode : PadMode) : (pad x u mode).take x.length = x := by
  by_cases h : x.length = u
  · rw [pad_of_length_eq mode h, List.take_length]
  · rw [pad_of_length_ne mode h, List.take_left]

theorem byteAt_pad {x : Bytes} {u k : Nat} (mode : PadMode) (hx : x.length < u) (hk : x.length ≤ k) :
    byteAt (pad x u mode) k = byteAt (padding x.length u mode) (k - x.length) := by
  rw [pad_of_length_ne mode hx.ne, byteAt_append_right _ hk]

theorem byteAt_padding_marker80 (n u i : Nat) :
    byteAt (padding n u .marker80) i = if i = 0 then 0x80#8 else 0x00#8 := by
  cases i with
  | zero => rfl
  | succ j => exact byteAt_zeros _ j

theorem byteAt_padding_lengthByte {n u i : Nat} (hi : i < u - n) :
    byteAt (padding n u .lengthByte) i = if i = u - n - 1 then BitVec.ofNat 8 n else 0x00#8 := by
  by_cases hlast : i = u - n - 1
  · rw [if_pos hlast, padding, byteAt_append_right _ (by simp [hlast])]
    simp [hlast]
  · rw [if_neg hlast, padding, byteAt_append_left _ (by simp; omega), byteAt_zeros]

theorem byteAt_padding_laneXor (n u i : Nat) : byteAt (padding n u .laneXor) i = 0x00#8 :=
  byteAt_zeros _ i

/-- Settles O26: each form's padding is read byte by byte behind the block; the length byte holds its value because a
unit has at most 128 bytes. -/
theorem paddedBlock : Obligations.PaddedBlock := by
  intro x u mode hx hu
  refine ⟨pad_length mode hx, pad_take x u mode, pad_of_length_eq mode, fun hlt => ⟨?_, ?_, ?_⟩⟩
  · rintro rfl k hk -
    rw [byteAt_pad _ hlt hk, byteAt_padding_marker80]
    exact if_congr (by omega) rfl rfl
  · rintro rfl k hk hku
    rw [byteAt_pad _ hlt hk, byteAt_padding_lengthByte (by omega), apply_ite BitVec.toNat,
      BitVec.toNat_ofNat, Nat.mod_eq_of_lt (by omega)]
    exact if_congr (by omega) rfl rfl
  · rintro rfl k hk -
    rw [byteAt_pad _ hlt hk, byteAt_padding_laneXor]

/-! The blocks of one phase (R175). -/

/-- A step that leaves bytes of its phase to be consumed is NONFINAL (R174). -/
theorem classify_of_more {total off u : Nat} {ph : PadPhase} (h : off + (classify total off u ph).1 < total) :
    classify total off u ph = (u, nonfinalClass ph) := by
  obtain ⟨h0, -⟩ | ⟨-, -, hc⟩ | ⟨-, hrest, hc⟩ | ⟨-, -, hc⟩ := classify_cases total off u ph
  · omega
  · exact hc
  all_goals
    rw [hc] at h
    dsimp only at h
    omega

theorem PhaseRun.pos {total u off k : Nat} {ph : PadPhase} (h : PhaseRun total u ph off k) : 0 < k := by
  cases h <;> omega

/-- A phase of `k` steps has `k - 1` NONFINAL blocks and the block the classifier gives for the rest. -/
theorem PhaseRun.phaseBlocks_eq {total u off k : Nat} {ph : PadPhase} (h : PhaseRun total u ph off k) {fuel : Nat}
    (hfuel : k ≤ fuel) :
    phaseBlocks total u ph fuel off =
      List.replicate (k - 1) (u, nonfinalClass ph) ++ [classify total (off + (k - 1) * u) u ph] := by
  induction h generalizing fuel with
  | last hlast =>
    obtain ⟨fuel, rfl⟩ := Nat.exists_eq_add_of_le' hfuel
    simp [phaseBlocks, hlast]
  | @more off k hmore rest ih =>
    obtain ⟨fuel, rfl⟩ := Nat.exists_eq_succ_of_ne_zero (by omega : fuel ≠ 0)
    obtain ⟨j, rfl⟩ := Nat.exists_eq_succ_of_ne_zero rest.pos.ne'
    have hc := classify_of_more hmore
    have hoff : off + u + j * u = off + (j + 1) * u := by ring
    have hrest := ih (by omega : j + 1 ≤ fuel)
    rw [hc] at hmore hrest
    rw [phaseBlocks, hc, if_neg (not_le.mpr hmore), hrest]
    simp [List.replicate_succ, hoff]

theorem phaseSteps_of_pos {len u : Nat} (hu : 1 ≤ u) (h : 0 < len) : phaseSteps len u = (len - 1) / u + 1 := by
  rw [phaseSteps, show len + u - 1 = len - 1 + u by omega, Nat.add_div_right _ hu]
  exact Nat.max_eq_right (Nat.le_add_left 1 _)

/-- The steps before the last do not use up the phase, and one more unit does. -/
theorem phaseSteps_bounds {len u : Nat} (hu : 1 ≤ u) (h : 0 < len) :
    (phaseSteps len u - 1) * u < len ∧ len ≤ (phaseSteps len u - 1) * u + u := by
  rw [phaseSteps_of_pos hu h, Nat.add_sub_cancel]
  have hle := Nat.div_mul_le_self (len - 1) u
  have hlt := Nat.lt_div_mul_add hu (a := len - 1)
  omega

theorem phaseSteps_le (len : Nat) {u : Nat} (hu : 1 ≤ u) : phaseSteps len u ≤ len + 1 := by
  obtain rfl | h := Nat.eq_zero_or_pos len
  · exact (phaseSteps_of_le hu (Nat.zero_le u)).le
  · rw [phaseSteps_of_pos hu h]
    have := Nat.div_le_self (len - 1) u
    omega

/-- All blocks of a phase, with the last one still as the classifier's answer. -/
theorem phaseBlocks_zero (total : Nat) {u : Nat} (ph : PadPhase) (hu : 1 ≤ u) :
    phaseBlocks total u ph (total + 1) 0 =
      List.replicate (phaseSteps total u - 1) (u, nonfinalClass ph) ++
        [classify total ((phaseSteps total u - 1) * u) u ph] := by
  rw [(phaseRun_zero hu total ph).phaseBlocks_eq (phaseSteps_le total hu), Nat.zero_add]

/-- With at most one unit left behind whole units, the last block is full exactly where the unit divides the length
(R174, R175). -/
theorem classify_last {total u q : Nat} (ph : PadPhase) (hlt : q * u < total) (hle : total ≤ q * u + u) :
    classify total (q * u) u ph =
      if u ∣ total then (u, finalFullClass ph) else (total - q * u, finalPartialClass ph) := by
  have hdvd : u ∣ total ↔ u ∣ total - q * u := (Nat.dvd_sub_iff_left hlt.le (Nat.dvd_mul_left u q)).symm
  obtain ⟨h0, -⟩ | ⟨-, hmore, -⟩ | ⟨-, hfull, hc⟩ | ⟨-, hpart, hc⟩ := classify_cases total (q * u) u ph
  · omega
  · omega
  · rw [if_pos (hdvd.mpr (by rw [hfull])), hc]
  · rw [if_neg (fun hd => absurd (Nat.le_of_dvd (by omega) (hdvd.mp hd)) (by omega)), hc]

/-- The steps of a phase consume its length exactly. -/
theorem sum_phaseBlocks (total : Nat) {u : Nat} (ph : PadPhase) (hu : 1 ≤ u) :
    ((phaseBlocks total u ph (total + 1) 0).map Prod.fst).sum = total := by
  have hlast : (phaseSteps total u - 1) * u ≤ total ∧ total ≤ (phaseSteps total u - 1) * u + u := by
    obtain rfl | h := Nat.eq_zero_or_pos total
    · simp [phaseSteps_of_le hu]
    · exact (phaseSteps_bounds hu h).imp_left le_of_lt
  have hrest := classify_fst_of_le (Nat.sub_le_iff_le_add'.mpr hlast.2) ph
  rw [phaseBlocks_zero total ph hu]
  simp [hrest, Nat.add_sub_cancel' hlast.1]

/-- Settles O27: the phase's run gives the list of blocks, and the bounds on its last offset give the class of the
last one. -/
theorem classesOfAPhase : Obligations.ClassesOfAPhase := by
  intro L u ph hu
  have hblocks := phaseBlocks_zero L ph hu
  refine ⟨?_, fun hL => ?_, sum_phaseBlocks L ph hu, ?_⟩
  · rintro rfl
    rw [hblocks, phaseSteps_of_le hu (Nat.zero_le u)]
    rfl
  · have hk : phaseSteps L u = (L + u - 1) / u := Nat.max_eq_right ((Nat.one_le_div_iff hu).mpr (by omega))
    obtain ⟨hlt, hle⟩ := phaseSteps_bounds hu hL
    rw [hblocks, classify_last ph hlt hle, hk]
  · have hpos := (phaseRun_zero hu L ph).pos
    rw [hblocks, List.length_append, List.length_replicate, List.length_singleton]
    omega

/-! Domain separation (R170, R236). -/

/-- The eight classes in the order of R170's indices. -/
def domClasses : List DomClass :=
  [.adNonfinal, .adFinalFull, .adFinalPartial, .adEmpty, .msgNonfinal, .msgFinalFull, .msgFinalPartial, .msgEmpty]

theorem mem_domClasses (c : DomClass) : c ∈ domClasses := by
  cases c <;> decide

theorem domClasses_map_domByte (P : Profile) : domClasses.map (domByte P) = P.dom.toList := rfl

theorem profile_dom_nodup {sMax : Nat} {P : Profile} (h : P.wf sMax = true) : P.dom.toList.Nodup := by
  simp only [Profile.wf, Bool.and_eq_true] at h
  obtain ⟨⟨-, hdistinct⟩, -⟩ := h
  exact of_decide_eq_true hdistinct

/-- Law DOM-DISTINCT as injectivity. -/
theorem domByte_injective {sMax : Nat} {P : Profile} (h : P.wf sMax = true) : Function.Injective (domByte P) :=
  have hnodup := domClasses_map_domByte P ▸ profile_dom_nodup h
  fun c c' => List.inj_on_of_nodup_map hnodup (mem_domClasses c) (mem_domClasses c')

theorem classify_empty (off u : Nat) (ph : PadPhase) : classify 0 off u ph = (0, emptyClass ph) := rfl

/-- One unit of data is one full final block (R174). -/
theorem classify_one_unit {u : Nat} (ph : PadPhase) (hu : 1 ≤ u) : classify u 0 u ph = (u, finalFullClass ph) := by
  have h := classify_last (q := 0) (total := u) (u := u) ph (by omega) (by omega)
  rwa [Nat.zero_mul, if_pos dvd_rfl] at h

/-- Less than one unit of data is one partial final block (R174). -/
theorem classify_of_lt_unit {n u : Nat} (ph : PadPhase) (hpos : 0 < n) (hlt : n < u) :
    classify n 0 u ph = (n, finalPartialClass ph) := by
  have h := classify_last (q := 0) (total := n) (u := u) ph (by omega) (by omega)
  rwa [Nat.zero_mul, if_neg (Nat.not_dvd_of_pos_of_lt hpos hlt)] at h

/-- Settles O28: law DOM-DISTINCT separates the bytes of the classes, and the classifier the boundary cases. -/
theorem domainSeparation : Obligations.DomainSeparation := by
  intro P sMax h
  obtain ⟨hAd, -, hMsg, -⟩ := Profile.wf_ranges h
  refine ⟨fun c c' hcc => domByte_injective h hcc, ?_, ?_, ?_, fun h2 => ?_⟩
  · rw [classify_empty]; rfl
  · rw [classify_one_unit _ hAd]; rfl
  · rw [classify_one_unit _ hMsg]; rfl
  · rw [classify_of_lt_unit _ (by omega) (by omega)]; rfl

end Sys2Proof.Machine
end

/-! Prover's lemmas, 42_engine.md: the step of the command that runs, whatever the command (R206, R230, R232). -/
section
namespace Sys2Proof.Machine

/-- While a command runs, exec of it is the step that OP and PHASE select (R206, R270). -/
theorem exec_running {i : Instr} {s : State} (hi : i.wf = true) (hne : i ≠ .nop) (hb : s.busy = true)
    (hop : s.op = i.latch) : exec i s = sequenceOf s.op s := by
  rw [hop]
  cases i with
  | nop => exact absurd rfl hne
  | reservedHigh high opcode =>
    have hhigh : high ≠ 0#28 := by simpa [Instr.wf] using hi
    have hlatch : (Instr.reservedHigh high opcode).latch = 0xF#4 := if_neg hhigh
    rw [hlatch] at hop ⊢
    exact runCommand_busy hb hop
  | _ => exact runCommand_busy hb hop

/-- With no event pending the sequencer moves (R371; log entry 1). -/
theorem step_of_agenda_nil {s : State} (h : s.agenda = []) : step s = sequencerTurn s := by
  rw [step, h]

/-- Settles O5: the sequencer's turn and exec of the latched command are both the step that OP and PHASE select. -/
theorem stepRunsTheLatchedCommand : Obligations.StepRunsTheLatchedCommand := by
  refine ⟨fun s i hb hi hne hop => ?_, fun s hb => ?_⟩
  · have hturn : sequencerTurn s = exec i s := (sequencerTurn_busy hb).trans (exec_running hi hne hb hop).symm
    exact ⟨(step_turn s).trans hturn, fun hnil => (step_of_agenda_nil hnil).trans hturn⟩
  · have hturn : sequencerTurn s = .next s := sequencerTurn_idle hb
    exact ⟨(step_turn s).trans hturn, fun hnil => (step_of_agenda_nil hnil).trans hturn⟩

/-- WIPE is the same step whatever OP holds (R206, R230). -/
theorem sequenceOf_wipe (op : BitVec 4) {s : State} (h : s.phase = .wipe) : sequenceOf op s = .next (wipe s) := by
  unfold sequenceOf
  generalize op.toNat = n
  match n with
  | 0 => simp only [resetTurn, h]
  | 1 => exact Dir.sequence_wipe (d := .enc) h
  | 2 => exact Dir.sequence_wipe (d := .dec) h
  | 3 => exact primSequence_wipe h
  | 4 => exact primSequence_wipe h
  | 5 => exact primSequence_wipe h
  | 6 => simp only [zeroizeSequence, h]
  | _ + 7 => simp only [reservedSequence, h]

/-- Settles O22: every command's steps end in the one WIPE. -/
theorem wipeStep : Obligations.WipeStep := by
  intro i s hi hne ⟨hb, hop, hphase⟩
  rw [exec_running hi hne hb hop, sequenceOf_wipe _ hphase]
  rfl

/-- Settles O23: the two clears of BUF leave no byte listed. -/
theorem bufclrStep : Obligations.BufclrStep := by
  intro s hb hphase
  refine ⟨fun hop => ⟨zeroizeBuf s, ?_, fun _ => rfl, rfl⟩, fun hop => ⟨resetClear s, ?_, fun _ => rfl, rfl⟩⟩
  · have hexec : exec .zeroize s = zeroizeSequence s := runCommand_busy hb hop
    rw [hexec, zeroizeSequence, hphase]
  · have hturn : sequencerTurn s = resetTurn s := by rw [sequencerTurn_busy hb, hop]; rfl
    rw [step_turn, hturn, resetTurn, hphase]

end Sys2Proof.Machine
end

/-! Prover's lemmas, 42_engine.md: the steps of ENCRYPT and DECRYPT, one by one (R207 to R220). -/
section
namespace Sys2Proof.Machine

/-- While ENCRYPT or DECRYPT runs, exec of it is the sequencer's step (R206). -/
theorem exec_aeadInstr {d : Dir} {ph : Phase} {s : State} (h : Running d.instr ph s) :
    exec d.instr s = d.sequence s := by
  obtain ⟨hb, hop, -⟩ := h
  cases d <;> exact runCommand_busy hb hop

theorem Running.phase_eq {i : Instr} {ph : Phase} {s : State} (h : Running i ph s) : s.phase = ph :=
  h.2.2

/-- The profile FAMILY selects is well-formed. -/
theorem Selects.profile_wf {s : State} {P : Profile} (h : Selects s P) (hp : s.params.wf = true) :
    P.wf s.params.sMax = true :=
  profile_wf_of_params hp h.1

/-- A string of BUF bytes followed by the zeros that fill a latch up (R208). -/
theorem fit_readBytes (m : Mem) (a : Nat) {k n : Nat} (h : k ≤ n) :
    fit n (m.readBytes a k) = m.readBytes a k ++ zeros (n - k) := by
  rw [fit_of_le (by rwa [Mem.readBytes_length]), Mem.readBytes_length]

theorem fit_famInit (P : Profile) (K N : Bytes) {n : Nat} (h : P.stateBytes ≤ n) :
    fit n (famInit P K N) = famInit P K N ++ zeros (n - P.stateBytes) := by
  rw [fit_of_le (by rwa [famInit_length]), famInit_length]

theorem fit_computedTag (P : Profile) (s : State) {n : Nat} (h : P.tagLen ≤ n) :
    fit n (computedTag P s) = computedTag P s ++ zeros (n - P.tagLen) := by
  rw [fit_of_le (by rwa [computedTag_length]), computedTag_length]

/-! CHECK (R207, R208). -/

/-- The CHECK step that passes latches the operands. -/
theorem exec_check_passes {d : Dir} {P : Profile} {s : State} (hp : s.params.wf = true)
    (hrun : Running d.instr .check s) (hpass : AeadPasses d P s) : exec d.instr s = .next (afterCheck d P s) :=
  ((exec_aeadInstr hrun).trans (Dir.sequence_check hrun.phase_eq)).trans
    (aeadCheckStep_ok (aeadCheck_of_passes hp hpass))

/-- Settles O8: in either direction the latches hold the bytes at the operand's pointer and zeros. -/
theorem aeadCheckPasses : Obligations.AeadCheckPasses := by
  intro s P hp
  refine ⟨fun hrun hpass => (exec_check_passes (d := .enc) hp hrun hpass).trans ?_,
    fun hrun hpass => (exec_check_passes (d := .dec) hp hrun hpass).trans ?_⟩ <;>
  obtain ⟨-, -, -, -, -, -, -, hkey, -, hnonce, -, htag⟩ := Profile.wf_ranges (hpass.1.profile_wf hp)
  · have hmLen : BitVec.ofNat 32 (messageLen .enc P s) = s.inLen := ofNat_toNat_eq s.inLen
    rw [afterCheck, latchOperands, fit_readBytes _ _ hkey, fit_readBytes _ _ hnonce, hmLen]
  · rw [afterCheck, latchOperands, fit_readBytes _ _ hkey, fit_readBytes _ _ hnonce, fit_readBytes _ _ htag]
    rfl

/-! INIT and AD (R210, R212). -/

/-- Settles O10: INIT's state fills ST up with zeros. -/
theorem initStep_holds : Obligations.InitStep := by
  intro d P s hp hsel hrun
  obtain ⟨-, -, -, -, -, hstate, -⟩ := Profile.wf_ranges (hsel.profile_wf hp)
  rw [exec_aeadInstr hrun, Dir.sequence_init hrun.phase_eq, initStep_eq (profileOf_of_selects hp hsel),
    fit_famInit _ _ _ hstate]

/-- The sum of an offset and the classifier's count stays within the phase, and so within 32 bits (R70). -/
theorem offset_add_classify {len off : Word} (h : midPhase len.toNat off.toNat) (u : Nat) (ph : PadPhase) :
    off.toNat + (classify len.toNat off.toNat u ph).1 ≤ len.toNat ∧
    (BitVec.ofNat 32 (off.toNat + (classify len.toNat off.toNat u ph).1)).toNat
      = off.toNat + (classify len.toNat off.toNat u ph).1 := by
  have hrest := classify_le_rest len.toNat off.toNat u ph
  have hlen := len.isLt
  unfold midPhase at h
  exact ⟨by omega, Nat.mod_eq_of_lt (by omega)⟩

/-- The classifier's block lies in BUF with its region. -/
theorem inBuf_block {s : State} {ptr len off : Word} (h : midPhase len.toNat off.toNat)
    (hin : len.toNat = 0 ∨ ptr.toNat + len.toNat ≤ s.params.bufSize) (u : Nat) (ph : PadPhase) :
    inBuf s (ptr.toNat + off.toNat) (classify len.toNat off.toNat u ph).1 := by
  obtain ⟨hle, -⟩ := offset_add_classify h u ph
  show _ = 0 ∨ ptr.toNat + off.toNat + _ ≤ s.params.bufSize
  omega

/-- Settles O11: the AD step absorbs the classifier's block; ADOFF cannot pass AD_LEN, so its sum is exact. -/
theorem adStep_holds : Obligations.AdStep := by
  intro d P s hp hsel hrun hmid hin c x
  obtain ⟨-, hexact⟩ := offset_add_classify hmid P.unitAd .ad
  refine ⟨absorbAd P x s, ?_, hexact, ?_⟩
  · rw [exec_aeadInstr hrun, Dir.sequence_ad hrun.phase_eq]
    exact adStep_eq (profileOf_of_selects hp hsel) (inBuf_block hmid hin _ _)
  · rw [absorbAd_adOff, adBlock, hexact]
    rfl

/-! MSG (R214, R215). -/

/-- The MSG step of either direction: what is stored, what is kept, and the state after it. -/
theorem msgStep_effect {d : Dir} {P : Profile} {s : State} (hp : s.params.wf = true) (hm : s.buf.wf = true)
    (hsel : Selects s P) (hrun : Running d.instr .msg s) (hmid : midPhase s.mLen.toNat s.mOff.toNat)
    (hin : s.mLen.toNat = 0 ∨ s.inPtr.toNat + s.mLen.toNat ≤ s.params.bufSize)
    (hout : s.mLen.toNat = 0 ∨ s.outPtr.toNat + s.mLen.toNat ≤ s.params.bufSize) :
    let c := msgBlock P s
    let r := msgUnit d P (s.st.take P.stateBytes) (s.buf.readBytes (s.inPtr.toNat + s.mOff.toNat) c.1) c
    ∃ t : State, exec d.instr s = .next t ∧
      t.buf.readBytes (s.outPtr.toNat + s.mOff.toNat) c.1 = r.2 ∧
      SameOutside s t (s.outPtr.toNat + s.mOff.toNat) c.1 ∧
      t.mOff.toNat = s.mOff.toNat + c.1 ∧
      t = { s with
        buf := t.buf
        st := r.1 ++ s.st.drop P.stateBytes
        mOff := t.mOff
        phase := if t.mOff.toNat ≥ s.mLen.toNat then .final else .msg } := by
  intro c r
  obtain ⟨-, hexact⟩ := offset_add_classify hmid P.unitMsg .msg
  have hr : r.2.length = c.1 := msgUnit_snd_length _ _ _ _ _
  have hstep : exec d.instr s = .next (advanceMsg d P (s.buf.readBytes (s.inPtr.toNat + s.mOff.toNat) c.1)
      (s.buf.writeBytes (s.outPtr.toNat + s.mOff.toNat) r.2) s) := by
    rw [exec_aeadInstr hrun, Dir.sequence_msg hrun.phase_eq,
      msgStep_eq (profileOf_of_selects hp hsel) (inBuf_block hmid hin _ _) (inBuf_block hmid hout _ _), msgOutput_eq]
  refine ⟨_, hstep, ?_, fun b hb => Mem.read_writeBytes_outside hm (by rwa [hr]), hexact, ?_⟩
  · rw [advanceMsg_buf, ← hr]
    exact Mem.readBytes_writeBytes_same _ _ hm
  · rw [advanceMsg_mOff, msgBlock, hexact, advanceMsg, msgOutput_eq]
    rfl

/-- Settles O12: the MSG step with `encBlock`. -/
theorem msgStepOfEncrypt : Obligations.MsgStepOfEncrypt :=
  fun _ _ hp hm hsel hrun hmid hin hout => msgStep_effect (d := .enc) hp hm hsel hrun hmid hin hout

/-- Settles O13: the MSG step with `decBlock`. -/
theorem msgStepOfDecrypt : Obligations.MsgStepOfDecrypt :=
  fun _ _ hp hm hsel hrun hmid hin hout => msgStep_effect (d := .dec) hp hm hsel hrun hmid hin hout

/-! FINAL (R220). -/

theorem bufSize_le {p : Params} (hp : p.wf = true) : p.bufSize ≤ 32768 := by
  simp only [Params.wf, Bool.and_eq_true, decide_eq_true_eq] at hp
  obtain ⟨⟨⟨⟨⟨⟨⟨-, -, hmax⟩, -⟩, -⟩, -⟩, -⟩, -⟩, -⟩ := hp
  exact hmax

/-- Settles O14: ENCRYPT's tag lies in BUF, so OUT_LEN holds the sum; DECRYPT's goes to TC only. -/
theorem finalStep_holds : Obligations.FinalStep := by
  intro P s hp hm hsel T
  have hprofile := profileOf_of_selects hp hsel
  obtain ⟨-, -, -, -, -, -, -, -, -, -, -, htag⟩ := Profile.wf_ranges (hsel.profile_wf hp)
  have hT : fit Config.latchBytes (computedTag P s) = T ++ zeros (32 - P.tagLen) := fit_computedTag P s htag
  have hlen : T.length = P.tagLen := computedTag_length P s
  refine ⟨fun hrun hin => ?_, fun hrun => ?_⟩
  · have hmax := bufSize_le hp
    have hstep := finalStep_enc_eq hprofile (.inr hin)
    rw [hT] at hstep
    refine ⟨_, ((exec_aeadInstr (d := .enc) hrun).trans (Dir.sequence_final hrun.phase_eq)).trans hstep, ?_,
      fun b hb => Mem.read_writeBytes_outside hm (by rwa [computedTag_length]), Nat.mod_eq_of_lt (by omega), rfl⟩
    rw [← hlen]
    exact Mem.readBytes_writeBytes_same _ _ hm
  · have hstep := finalStep_dec_eq hprofile
    rw [hT] at hstep
    exact ((exec_aeadInstr (d := .dec) hrun).trans (Dir.sequence_final hrun.phase_eq)).trans hstep

end Sys2Proof.Machine
end

/-! Prover's lemmas, 42_engine.md: whole commands, and DECRYPT after ENCRYPT (R233, R234). -/
section
namespace Sys2Proof.Machine

/-! The comparator's mask (R250, R251). -/

theorem tagAcc_lt (a b : Bytes) (t : Nat) : (tagAcc a b t).toNat < 2 ^ 8 := by
  induction t with
  | zero => exact Nat.two_pow_pos 8
  | succ t ih =>
    have hbyte : ((byteAt a t ^^^ byteAt b t).setWidth 16).toNat < 2 ^ 8 := by
      have hlt := (byteAt a t ^^^ byteAt b t).isLt
      rw [BitVec.toNat_setWidth]
      omega
    rw [tagAcc, BitVec.toNat_or]
    exact Nat.or_lt_two_pow ih hbyte

/-- The subtraction borrows into the high byte exactly where the accumulator is 0. -/
theorem ctMask_eq (a b : Bytes) (t : Nat) : ctMask a b t = if tagAcc a b t = 0#16 then 0xFF#8 else 0x00#8 := by
  have hlt := tagAcc_lt a b t
  unfold ctMask
  by_cases h : tagAcc a b t = 0#16
  · rw [if_pos h, h]
    rfl
  · rw [if_neg h]
    have hpos : 0 < (tagAcc a b t).toNat := Nat.pos_of_ne_zero fun h0 => h (BitVec.eq_of_toNat_eq h0)
    have hsub : (tagAcc a b t - 1#16).toNat = (tagAcc a b t).toNat - 1 := BitVec.toNat_sub_of_le hpos
    apply BitVec.eq_of_toNat_eq
    rw [BitVec.toNat_setWidth, BitVec.toNat_ushiftRight, hsub, Nat.shiftRight_eq_div_pow]
    simp only [BitVec.toNat_ofNat]
    omega

theorem ctMask_cases (a b : Bytes) (t : Nat) : ctMask a b t = 0xFF#8 ∨ ctMask a b t = 0x00#8 := by
  rw [ctMask_eq]
  exact ite_eq_or_eq _ _ _

theorem tagAcc_self (a : Bytes) (t : Nat) : tagAcc a a t = 0#16 := by
  induction t with
  | zero => rfl
  | succ t ih => simp [tagAcc, ih]

theorem ctMask_self (a : Bytes) (t : Nat) : ctMask a a t = 0xFF#8 := by
  rw [ctMask_eq, if_pos (tagAcc_self a t)]

/-- Bit 0 of a mask the comparator gives says whether the tags matched (R254). -/
theorem ctMask_bit (a b : Bytes) (t : Nat) : (ctMask a b t).getLsbD 0 = (ctMask a b t == 0xFF#8) := by
  obtain h | h := ctMask_cases a b t <;> rw [h] <;> rfl

/-! A whole command, with what it leaves written out (R233). -/

theorem messageOf_length (d : Dir) (P : Profile) (s : State) : (messageOf d P s).length = messageLen d P s :=
  Mem.readBytes_length _ _ _

/-- The output has the length R207 reserves for it. -/
theorem outcomeOf_output_length {P : Profile} {s : State} (hP : P.wf s.params.sMax = true) (d : Dir) :
    (outcomeOf d P s).output.length = outputLen d P s := by
  obtain ⟨-, -, hunit, -⟩ := Profile.wf_ranges hP
  obtain ⟨-, hpayload⟩ := processMessage_length (d := d) hunit (keyOf P s) (nonceOf P s) (adOf s) (messageOf d P s)
  rw [messageOf_length] at hpayload
  cases d with
  | enc =>
    show (aeadEnc P _ _ _ _).length = messageLen .enc P s + P.tagLen
    rw [aeadEnc, aeadEncParts_eq, List.length_append, hpayload, processTag, famFinalize_length]
  | dec =>
    show (aeadDec P _ _ _ _ _).1.length = messageLen .dec P s
    rw [aeadDec, List.length_map, aeadDecParts_eq, hpayload]

/-- The output region passed its bounds check, so its length fits OUT_LEN. -/
theorem Underway.outputLen_lt {d : Dir} {P : Profile} {s : State} (h : Underway d P s) : outputLen d P s < 2 ^ 32 := by
  have hout : outputLen d P s = 0 ∨ s.outPtr.toNat + outputLen d P s ≤ s.params.bufSize := h.output_inBuf
  have hmax := bufSize_le h.params
  omega

theorem completed_complete {s : State} {o : AeadOutcome} {n : Nat} (hn : o.output.length = n) (hlt : n < 2 ^ 32) :
    Completed s (complete o (respond .written s)) o.result o.detail n := by
  refine ⟨rfl, rfl, ?_, ⟨⟨rfl, rfl, rfl, rfl, rfl, rfl, rfl, rfl, rfl⟩, rfl⟩, rfl⟩
  rw [← hn] at hlt ⊢
  exact Nat.mod_eq_of_lt hlt

theorem sameOutside_complete {s : State} (hm : s.buf.wf = true) (o : AeadOutcome) :
    SameOutside s (complete o (respond .written s)) s.outPtr.toNat o.output.length :=
  fun _ hb => Mem.read_writeBytes_outside hm hb

/-- An ENCRYPT or DECRYPT that passes its checks completes with its outcome at OUT_PTR and nothing else changed. -/
theorem aead_completes_with {d : Dir} {P : Profile} {s : State} (hs : Ready s) (hpass : AeadPasses d P s) :
    ∃ t : State, CompletesIn (s.withCommand d.instr) (aeadSteps d P s) t ∧
      t.buf.readBytes s.outPtr.toNat (outputLen d P s) = (outcomeOf d P s).output ∧
      SameOutside s t s.outPtr.toNat (outputLen d P s) ∧
      Completed s t (outcomeOf d P s).result (outcomeOf d P s).detail (outputLen d P s) := by
  have ⟨hp, hm, _⟩ := hs
  have hlen := outcomeOf_output_length (hpass.1.profile_wf hp) d
  have hlt : outputLen d P s < 2 ^ 32 := (underway_of_accepted hs hpass).outputLen_lt
  refine ⟨_, aead_completes hs hpass, ?_, ?_, completed_complete hlen hlt⟩
  · rw [← hlen]
    exact Mem.readBytes_writeBytes_same _ _ hm
  · rw [← hlen]
    exact sameOutside_complete hm _

/-- Settles O49: the outcome of ENCRYPT is AEAD_Enc of the operands in BUF. -/
theorem encryptCompletes : Obligations.EncryptCompletes :=
  fun _ _ hs hpass => aead_completes_with (d := .enc) hs hpass

/-- RESULT and DETAIL of DECRYPT by whether the tags matched: MASK is all ones or 0, so its bit 0 tells (R254). -/
theorem aeadOutcome_dec (P : Profile) (K N A X T : Bytes) :
    aeadOutcome .dec P K N A X T =
      { output := (aeadDec P K N A X T).1
        result := if (aeadDec P K N A X T).2 then .ok else .authenticationFailure
        detail := if (aeadDec P K N A X T).2 then .none else .tagMismatch } := by
  rw [aeadOutcome, tagMask, ctMask_bit]
  rfl

/-- Settles O50: the outcome of DECRYPT is AEAD_Dec of the operands in BUF. -/
theorem decryptCompletes : Obligations.DecryptCompletes := by
  intro s P hs hpass m K N A X T r
  obtain ⟨t, hrun, hout, hframe, hdone⟩ := aead_completes_with (d := .dec) hs hpass
  rw [outcomeOf, aeadOutcome_dec] at hout hdone
  exact ⟨t, hrun, hout, hframe, hdone⟩

/-! DECRYPT after ENCRYPT, under law ENC-DEC (R202, R234). -/

theorem slice_length {b : Bytes} {off n : Nat} (h : n ≤ b.length - off) : (slice b off n).length = n := by
  rw [slice, List.length_take, List.length_drop, Nat.min_eq_left h]

theorem slice_append_drop (b : Bytes) (off n : Nat) : slice b off n ++ b.drop (off + n) = b.drop off := by
  rw [slice, ← List.drop_drop, List.take_append_drop]

/-- DECRYPT of the block that ENCRYPT made of a slice of the plaintext. -/
theorem EncDecLaw.msgUnit_slice {P : Profile} (hlaw : EncDecLaw P) {S X : Bytes} (hS : S.length = P.stateBytes)
    {off : Nat} {c : Nat × DomClass} (hc : classify X.length off P.unitMsg .msg = c) :
    msgUnit .dec P S (msgUnit .enc P S (slice X off c.1) c).2 c =
      ((msgUnit .enc P S (slice X off c.1) c).1, slice X off c.1) := by
  subst hc
  have hlen := slice_length (classify_le_rest X.length off P.unitMsg .msg)
  have hblock := hlaw S (slice X off (classify X.length off P.unitMsg .msg).1)
    (domByte P (classify X.length off P.unitMsg .msg).2) hS (hlen.trans_le (classify_le_unit _ _ _ _))
  rw [hlen] at hblock
  exact hblock

/-- Block by block, DECRYPT of the rest of the ciphertext follows ENCRYPT's states and gives the plaintext's rest. -/
theorem decrypt_rest {P : Profile} (hlaw : EncDecLaw P) {X Y S : Bytes} {off k : Nat}
    (hk : PhaseRun X.length P.unitMsg .msg off k) (hS : S.length = P.stateBytes) (hlen : Y.length = X.length)
    (hY : Y.drop off = (msgFrom .enc P X k off S).2) :
    msgFrom .dec P Y k off S = ((msgFrom .enc P X k off S).1, X.drop off) := by
  induction hk generalizing S with
  | @last off hlast =>
    have hblock := hlaw.msgUnit_slice hS (X := X) (off := off) rfl
    rw [msgFrom_succ .enc P X 0 off S rfl rfl, msgFrom_zero, List.append_nil] at hY ⊢
    have hslice : slice Y off (classify X.length off P.unitMsg .msg).1 = Y.drop off := by
      rw [slice, List.take_of_length_le]
      rw [List.length_drop]
      omega
    rw [← hY, ← hslice] at hblock
    rw [msgFrom_succ .dec P Y 0 off S (by rw [hlen]) hblock, msgFrom_zero, List.append_nil,
      ← slice_append_drop X off (classify X.length off P.unitMsg .msg).1, hlast, List.drop_length, List.append_nil]
  | @more off k hmore rest ih =>
    have hblock := hlaw.msgUnit_slice hS (X := X) (off := off) rfl
    rw [msgFrom_succ .enc P X k off S rfl rfl] at hY ⊢
    have hunit := msgUnit_snd_length .enc P S (slice X off (classify X.length off P.unitMsg .msg).1)
      (classify X.length off P.unitMsg .msg)
    have hslice := congrArg (List.take (classify X.length off P.unitMsg .msg).1) hY
    rw [List.take_left' hunit] at hslice
    have hrest := congrArg (List.drop (classify X.length off P.unitMsg .msg).1) hY
    rw [List.drop_left' hunit, List.drop_drop] at hrest
    rw [← hslice] at hblock
    rw [msgFrom_succ .dec P Y k off S (by rw [hlen]) hblock, ih (msgUnit_fst_length _ _ _ _ _) hrest,
      slice_append_drop]

theorem aeadEncParts_fst_length {P : Profile} (hu : 1 ≤ P.unitMsg) (K N A X : Bytes) :
    (aeadEncParts P K N A X).1.length = X.length :=
  (processMessage_length (d := .enc) hu K N A X).2

/-- AEAD_Dec of what AEAD_Enc gives computes the same tag and the plaintext (R234). -/
theorem aeadDecParts_aeadEncParts {P : Profile} (hlaw : EncDecLaw P) (hu : 1 ≤ P.unitMsg) (K N A X : Bytes) :
    aeadDecParts P K N A (aeadEncParts P K N A X).1 = (X, (aeadEncParts P K N A X).2) := by
  have hlen : (processMessage .enc P K N A X).2.length = X.length := aeadEncParts_fst_length hu K N A X
  have hback : processMessage .dec P K N A (processMessage .enc P K N A X).2 =
      ((processMessage .enc P K N A X).1, X) := by
    rw [processMessage, hlen]
    exact decrypt_rest hlaw (phaseRun_zero hu X.length .msg) (absorbAll_length P K N A) hlen rfl
  rw [aeadDecParts_eq, aeadEncParts_eq]
  simp only [processTag, hback]

theorem map_and_ones (b : Bytes) : b.map (fun x => x &&& 0xFF#8) = b := by
  have hones : (fun x : Byte => x &&& 0xFF#8) = id := funext fun x => BitVec.and_allOnes
  rw [hones, List.map_id]

theorem aeadDec_of_aeadEncParts {P : Profile} (hlaw : EncDecLaw P) (hu : 1 ≤ P.unitMsg) (K N A X : Bytes) :
    aeadDec P K N A (aeadEncParts P K N A X).1 (aeadEncParts P K N A X).2 = (X, true) := by
  simp only [aeadDec, aeadDecParts_aeadEncParts hlaw hu, ctMask_self, map_and_ones, beq_self_eq_true]

/-- The message and the tag that DECRYPT takes apart are the ciphertext and the tag that ENCRYPT put together. -/
theorem input_split {P : Profile} {s : State} {C T : Bytes} (htag : P.tagLen ≤ s.inLen.toNat)
    (hC : C.length = messageLen .dec P s) (hin : s.buf.readBytes s.inPtr.toNat s.inLen.toNat = C ++ T) :
    messageOf .dec P s = C ∧ suppliedTagOf P s = T := by
  have hrest : s.inLen.toNat - messageLen .dec P s = P.tagLen := Nat.sub_sub_self htag
  rw [s.buf.readBytes_split _ (messageLen_le .dec P s), hrest] at hin
  exact List.append_inj hin ((messageOf_length .dec P s).trans hC.symm)

/-- Settles O51: law ENC-DEC block by block; the state after the last block, and with it the tag, is ENCRYPT's. -/
theorem roundTrip : Obligations.RoundTrip := by
  intro s P X hlaw hs hpass hX hin
  have ⟨hp, _⟩ := hs
  obtain ⟨-, -, hunit, -⟩ := Profile.wf_ranges (hpass.1.profile_wf hp)
  obtain ⟨-, -, -, htag, -⟩ := aeadCheck_eq_ok.mp (aeadCheck_of_passes hp hpass)
  have hC := aeadEncParts_fst_length hunit (keyOf P s) (nonceOf P s) (adOf s) X
  obtain ⟨hmessage, hsupplied⟩ := input_split (htag rfl) (hC.trans hX) hin
  have hdec := aeadDec_of_aeadEncParts hlaw hunit (keyOf P s) (nonceOf P s) (adOf s) X
  rw [← hmessage, ← hsupplied] at hdec
  obtain ⟨t, hrun, hout, -, hdone⟩ := aead_completes_with (d := .dec) hs hpass
  rw [outcomeOf, aeadOutcome_dec, hdec] at hout hdone
  rw [hX]
  exact ⟨t, hrun, hout, hdone⟩

end Sys2Proof.Machine
end

/-! Prover's lemmas, 42_engine.md: the invariant by what the machine is doing (R60 to R73, R206, R207, R278). -/
section
namespace Sys2Proof.Machine

/-! The codes of a failing check (R118, R278). -/

theorem firstFailing_mem {l : List (Detail × Bool)} {e : Detail} (h : firstFailing l = some e) :
    e ∈ l.map Prod.fst := by
  induction l with
  | nil => cases h
  | cons p l ih =>
    obtain ⟨e', failed⟩ := p
    cases failed with
    | true => cases h; exact List.mem_cons_self
    | false => exact List.mem_cons_of_mem e' (ih h)

/-- The answer of ENCRYPT's and DECRYPT's checks: the first failing one's code, or the profile. -/
def aeadAnswer (P : Profile) : Option Detail → Except Detail Profile
  | some e => .error e
  | none => .ok P

theorem aeadCheck_eq_firstFailing {d : Dir} {s : State} {P : Profile} (h : profileOf s = some P) :
    aeadCheck d s = aeadAnswer P (firstFailing (aeadFailures d P s)) := by
  rw [aeadFailures_eq]
  simp only [aeadCheck, h, firstFailing, apply_ite (aeadAnswer P), decide_eq_true_eq]
  rfl

/-- A failing check of ENCRYPT or DECRYPT has a code that InvalidParameters may have. -/
theorem aeadCheck_error_agrees {d : Dir} {s : State} {e : Detail} (h : aeadCheck d s = .error e) :
    outcomeAgrees .invalidParameters e = true := by
  have hcodes : ∀ e ∈ [Detail.badKeyLen, .badNonceLen, .shortInput, .adTooLong, .msgTooLong, .bounds, .overlap],
      outcomeAgrees .invalidParameters e = true := by decide
  cases hP : profileOf s with
  | none =>
    rw [aeadCheck, hP] at h
    cases h
    rfl
  | some P =>
    rw [aeadCheck_eq_firstFailing hP] at h
    cases hf : firstFailing (aeadFailures d P s) <;> rw [hf] at h <;> cases h
    exact hcodes e (firstFailing_mem hf)

/-- The same for the raw primitive commands. -/
theorem primCheck_error_agrees {o : PrimOp} {s : State} {e : Detail} (h : primCheck o s = .error e) :
    outcomeAgrees .invalidParameters e = true := by
  have hcodes : ∀ e ∈ [Detail.badPrim, .badPrim, .badPrim, .badRounds, .badKeyLen, .badBlockLen, .bounds, .bounds,
      .bounds], outcomeAgrees .invalidParameters e = true := by decide
  cases hD : primOf s with
  | none =>
    rw [primCheck, hD] at h
    cases h
    rfl
  | some D =>
    rw [primCheck_eq_firstFailing hD] at h
    cases hf : firstFailing (primFailures o D s) <;> rw [hf] at h <;> cases h
    exact hcodes e (firstFailing_mem hf)

/-! The invariant by what the machine is doing. -/

/-- What holds in every phase: the parameters, BUF, the widths of the registers, and RESULT with DETAIL. -/
structure AlwaysInv (s : State) : Prop where
  params : s.params.wf = true
  bufWf : s.buf.wf = true
  bufIn : s.buf.below s.params.bufSize = true
  widths : s.st.length = s.params.sMax ∧ s.kl.length = Config.latchBytes ∧ s.nl.length = Config.latchBytes ∧
    s.tc.length = Config.latchBytes ∧ s.ts.length = Config.latchBytes
  outcome : outcomeAgrees s.result s.detail = true

/-- BUSY = 0 (R73). -/
structure IdleInv (s : State) : Prop where
  always : AlwaysInv s
  busy : s.busy = false
  phase : s.phase = .idle
  zero : InternalsZero s

/-- The last step of a command is due (R230). -/
structure WipeInv (s : State) : Prop where
  always : AlwaysInv s
  busy : s.busy = true
  done : s.done = false
  phase : s.phase = .wipe

/-- BUSY = 1, and nothing is reported yet (R270, R350). -/
structure WorkInv (s : State) : Prop where
  always : AlwaysInv s
  busy : s.busy = true
  done : s.done = false
  result : s.result = .ok
  detail : s.detail = .none
  outLen : s.outLen = 0#32
  pair : reachablePair s.phase s.op = true

/-- Nothing is latched: CHECK, BUFCLR and PRIM (R209, R231). -/
structure FreshInv (s : State) : Prop where
  work : WorkInv s
  phase : s.phase = .check ∨ s.phase = .bufclr ∨ s.phase = .prim
  zero : DataInternalsZero s
  prim : s.phase = .prim → ∃ o D, s.op = o.op ∧ primCheck o s = .ok D

/-- Between a passed CHECK of ENCRYPT or DECRYPT and WIPE (R207, R208). -/
structure AeadInv (d : Dir) (P : Profile) (s : State) : Prop where
  work : WorkInv s
  op : s.op = d.op
  phase : aeadPhase s.phase = true
  running : AeadRunning d P s

theorem Dir.op_injective : Function.Injective Dir.op := by
  intro d d'
  cases d <;> cases d' <;> decide

theorem PrimOp.op_injective : Function.Injective PrimOp.op := by
  intro o o'
  cases o <;> cases o' <;> decide

section
variable {s : State}

theorem IdleInv.not_busy (h : IdleInv s) : ¬ s.busy = true := by
  rw [h.busy]
  decide

theorem IdleInv.machineInv (h : IdleInv s) : MachineInv s where
  params := h.always.params
  bufWf := h.always.bufWf
  bufIn := h.always.bufIn
  widths := h.always.widths
  idle := fun _ => ⟨h.phase, h.zero⟩
  running := fun hb => absurd hb h.not_busy
  outcome := h.always.outcome
  pending := fun hb => absurd hb h.not_busy
  fresh := fun hb => absurd hb h.not_busy
  aead := fun _ hb => absurd hb h.not_busy
  prim := fun _ hb => absurd hb h.not_busy

theorem WipeInv.machineInv (h : WipeInv s) : MachineInv s where
  params := h.always.params
  bufWf := h.always.bufWf
  bufIn := h.always.bufIn
  widths := h.always.widths
  idle := fun hb => absurd hb (by simp [h.busy])
  running := fun _ => ⟨by rw [h.phase]; rfl, h.done⟩
  outcome := h.always.outcome
  pending := fun _ hne => absurd h.phase hne
  fresh := fun _ hph => by simp [h.phase] at hph
  aead := fun _ _ _ hph => by simp [h.phase, aeadPhase] at hph
  prim := fun _ _ _ hph => by simp [h.phase] at hph

theorem FreshInv.machineInv (h : FreshInv s) : MachineInv s where
  params := h.work.always.params
  bufWf := h.work.always.bufWf
  bufIn := h.work.always.bufIn
  widths := h.work.always.widths
  idle := fun hb => absurd hb (by simp [h.work.busy])
  running := fun _ => ⟨h.work.pair, h.work.done⟩
  outcome := h.work.always.outcome
  pending := fun _ _ => ⟨h.work.result, h.work.detail, h.work.outLen⟩
  fresh := fun _ _ => h.zero
  aead := fun _ _ _ hph => by
    obtain he | he | he := h.phase <;> rw [he] at hph <;> cases hph
  prim := fun o _ hop hph => by
    obtain ⟨o', D, hop', hD⟩ := h.prim hph
    obtain rfl := PrimOp.op_injective (hop.symm.trans hop')
    exact ⟨D, hD⟩

theorem AeadInv.machineInv {d : Dir} {P : Profile} (h : AeadInv d P s) : MachineInv s where
  params := h.work.always.params
  bufWf := h.work.always.bufWf
  bufIn := h.work.always.bufIn
  widths := h.work.always.widths
  idle := fun hb => absurd hb (by simp [h.work.busy])
  running := fun _ => ⟨h.work.pair, h.work.done⟩
  outcome := h.work.always.outcome
  pending := fun _ _ => ⟨h.work.result, h.work.detail, h.work.outLen⟩
  fresh := fun _ hph => by
    have haead := h.phase
    obtain he | he | he := hph <;> rw [he] at haead <;> cases haead
  aead := fun d' _ hop _ => by
    obtain rfl := Dir.op_injective (h.op.symm.trans hop)
    exact ⟨P, h.running⟩
  prim := fun _ _ _ hph => by
    have haead := h.phase
    rw [hph] at haead
    cases haead

theorem MachineInv.always (h : MachineInv s) : AlwaysInv s :=
  ⟨h.params, h.bufWf, h.bufIn, h.widths, h.outcome⟩

theorem MachineInv.work (h : MachineInv s) (hb : s.busy = true) (hph : s.phase ≠ .wipe) : WorkInv s := by
  obtain ⟨hpair, hdone⟩ := h.running hb
  obtain ⟨hresult, hdetail, houtLen⟩ := h.pending hb hph
  exact ⟨h.always, hb, hdone, hresult, hdetail, houtLen, hpair⟩

theorem dirOp_of_pair {op : BitVec 4} (h : (op == 1#4 || op == 2#4) = true) : ∃ d : Dir, op = d.op := by
  simp only [Bool.or_eq_true, beq_iff_eq] at h
  obtain rfl | rfl := h
  · exact ⟨.enc, rfl⟩
  · exact ⟨.dec, rfl⟩

/-- ENCRYPT and DECRYPT are the only commands with these phases (R206). -/
theorem dirOp_of_aeadPhase {ph : Phase} {op : BitVec 4} (hph : aeadPhase ph = true) (h : reachablePair ph op = true) :
    ∃ d : Dir, op = d.op := by
  cases ph with
  | init | ad | msg | final => exact dirOp_of_pair h
  | verify | scrub => exact ⟨.dec, beq_iff_eq.mp h⟩
  | idle | check | wipe | prim | bufclr => cases hph

theorem primOp_of_pair {op : BitVec 4} (h : reachablePair .prim op = true) : ∃ o : PrimOp, op = o.op := by
  simp only [reachablePair, Bool.or_eq_true, beq_iff_eq] at h
  obtain (rfl | rfl) | rfl := h
  · exact ⟨.enc, rfl⟩
  · exact ⟨.dec, rfl⟩
  · exact ⟨.perm, rfl⟩

/-- A state of the invariant is idle, about to wipe, has nothing latched, or runs ENCRYPT or DECRYPT. -/
theorem MachineInv.cases (h : MachineInv s) :
    IdleInv s ∨ WipeInv s ∨ FreshInv s ∨ ∃ d P, AeadInv d P s := by
  cases hb : s.busy with
  | false =>
    obtain ⟨hphase, hzero⟩ := h.idle hb
    exact .inl ⟨h.always, hb, hphase, hzero⟩
  | true =>
    obtain ⟨hpair, hdone⟩ := h.running hb
    by_cases hwipe : s.phase = .wipe
    · exact .inr (.inl ⟨h.always, hb, hdone, hwipe⟩)
    have hwork := h.work hb hwipe
    by_cases haead : aeadPhase s.phase = true
    · obtain ⟨d, hop⟩ := dirOp_of_aeadPhase haead hpair
      obtain ⟨P, hrunning⟩ := h.aead d hb hop haead
      exact .inr (.inr (.inr ⟨d, P, hwork, hop, haead, hrunning⟩))
    · have hfresh : s.phase = .check ∨ s.phase = .bufclr ∨ s.phase = .prim := by
        cases hph : s.phase <;> simp [hph, aeadPhase, reachablePair] at hpair hwipe haead ⊢
      refine .inr (.inr (.inl ⟨hwork, hfresh, h.fresh hb hfresh, fun hprim => ?_⟩))
      rw [hprim] at hpair
      obtain ⟨o, hop⟩ := primOp_of_pair hpair
      obtain ⟨D, hD⟩ := h.prim o hb hop hprim
      exact ⟨o, D, hop, hD⟩

end

end Sys2Proof.Machine
end

/-! Prover's lemmas, 42_engine.md: every step keeps the machine's invariant, whatever the host does (R206, R231). -/
section
namespace Sys2Proof.Machine

/-! The steps by OP (R206). -/

/-- The steps of a running command, by the kind of command OP names. -/
theorem sequenceOf_cases (op : BitVec 4) :
    (op = 0#4 ∧ sequenceOf op = resetTurn) ∨ (∃ d : Dir, op = d.op ∧ sequenceOf op = d.sequence) ∨
    (∃ o : PrimOp, op = o.op ∧ sequenceOf op = primSequence o) ∨ (op = 6#4 ∧ sequenceOf op = zeroizeSequence) ∨
    sequenceOf op = reservedSequence := by
  have hop : ∀ o : BitVec 4, o = 0#4 ∨ o = 1#4 ∨ o = 2#4 ∨ o = 3#4 ∨ o = 4#4 ∨ o = 5#4 ∨ o = 6#4 ∨ 7 ≤ o.toNat := by
    decide
  obtain rfl | rfl | rfl | rfl | rfl | rfl | rfl | h := hop op
  · exact .inl ⟨rfl, rfl⟩
  · exact .inr (.inl ⟨.enc, rfl, rfl⟩)
  · exact .inr (.inl ⟨.dec, rfl, rfl⟩)
  · exact .inr (.inr (.inl ⟨.enc, rfl, rfl⟩))
  · exact .inr (.inr (.inl ⟨.dec, rfl, rfl⟩))
  · exact .inr (.inr (.inl ⟨.perm, rfl, rfl⟩))
  · exact .inr (.inr (.inr (.inl ⟨rfl, rfl⟩)))
  · refine .inr (.inr (.inr (.inr ?_)))
    obtain ⟨k, hk⟩ := Nat.exists_eq_add_of_le' h
    unfold sequenceOf
    rw [hk]
    rfl

theorem sequenceOf_dirOp (d : Dir) : sequenceOf d.op = d.sequence := by
  cases d <;> rfl

theorem sequenceOf_primOp (o : PrimOp) : sequenceOf o.op = primSequence o := by
  cases o <;> rfl

/-! Strings of zeros in the registers. -/

theorem drop_zeros (n k : Nat) : (zeros n).drop k = zeros (n - k) := List.drop_replicate

theorem drop_fit_readBytes (m : Mem) (a : Nat) {k n : Nat} (h : k ≤ n) :
    (fit n (m.readBytes a k)).drop k = zeros (n - k) := by
  rw [fit_readBytes m a h, List.drop_left' (Mem.readBytes_length _ _ _)]

theorem drop_fit_computedTag (P : Profile) (s : State) {n : Nat} (h : P.tagLen ≤ n) :
    (fit n (computedTag P s)).drop P.tagLen = zeros (n - P.tagLen) := by
  rw [fit_computedTag P s h, List.drop_left' (computedTag_length P s)]

section
variable {s : State}

theorem DataInternalsZero.widths (h : DataInternalsZero s) :
    s.st.length = s.params.sMax ∧ s.kl.length = Config.latchBytes ∧ s.nl.length = Config.latchBytes ∧
    s.tc.length = Config.latchBytes ∧ s.ts.length = Config.latchBytes := by
  obtain ⟨hst, hkl, hnl, htc, hts, -⟩ := h
  rw [hst, hkl, hnl, htc, hts]
  exact ⟨List.length_replicate, List.length_replicate, List.length_replicate, List.length_replicate,
    List.length_replicate⟩

theorem internalsZero_clearInternals (s : State) : InternalsZero (clearInternals s) :=
  ⟨⟨rfl, rfl, rfl, rfl, rfl, rfl, rfl, rfl, rfl⟩, rfl⟩

/-! Writes to BUF within its bounds. -/

/-- BUF in canonical form, with nothing at or above its size (R74). -/
def BufOk (s : State) (m : Mem) : Prop := m.wf = true ∧ m.below s.params.bufSize = true

theorem AlwaysInv.bufOk (h : AlwaysInv s) : BufOk s s.buf := ⟨h.bufWf, h.bufIn⟩

theorem BufOk.writeBytes {m : Mem} (h : BufOk s m) {a n : Nat} {bs : Bytes} (hlen : bs.length = n)
    (hin : inBuf s a n) : BufOk s (m.writeBytes a bs) := by
  subst hlen
  obtain ⟨hwf, hbelow⟩ := h
  exact ⟨Mem.wf_writeBytes a bs hwf, Mem.below_writeBytes hbelow (hin.imp List.eq_nil_of_length_eq_zero id)⟩

theorem bufOk_nil (s : State) : BufOk s [] := ⟨rfl, rfl⟩

theorem bufOk_unspecified (s : State) (k : Nat) : BufOk s (unspecifiedBuf k s.params.bufSize) :=
  ⟨unspecifiedBuf_wf _ _, Mem.below_fill (m := []) _ rfl le_rfl⟩

/-- A step that leaves the registers' widths, with BUF and the outcome it writes. -/
theorem AlwaysInv.update (h : AlwaysInv s) {m : Mem} (hm : BufOk s m) {r : Result} {e : Detail}
    (ho : outcomeAgrees r e = true) {busy done : Bool} {ph : Phase} {outLen : Word} {op : BitVec 4} :
    AlwaysInv { s with
      buf := m, result := r, detail := e, busy := busy, done := done, phase := ph, outLen := outLen, op := op } :=
  ⟨h.params, hm.1, hm.2, h.widths, ho⟩

/-- A step that goes on to another phase of the command (R206). -/
theorem WorkInv.update (h : WorkInv s) {ph : Phase} {st kl nl tc ts : Bytes} {mask : Byte} {adOff mOff mLen : Word}
    {m : Mem}
    (ha : AlwaysInv { s with
      phase := ph, st := st, kl := kl, nl := nl, tc := tc, ts := ts, mask := mask, adOff := adOff, mOff := mOff
      mLen := mLen, buf := m })
    (hpair : reachablePair ph s.op = true) :
    WorkInv { s with
      phase := ph, st := st, kl := kl, nl := nl, tc := tc, ts := ts, mask := mask, adOff := adOff, mOff := mOff
      mLen := mLen, buf := m } :=
  ⟨ha, h.busy, h.done, h.result, h.detail, h.outLen, hpair⟩

theorem WorkInv.toPhase (h : WorkInv s) {ph : Phase} (hpair : reachablePair ph s.op = true) :
    WorkInv { s with phase := ph } :=
  h.update (h.always.update h.always.bufOk h.always.outcome) hpair

/-! The steps shared by the commands (R230, R232, R313). -/

/-- WIPE goes from any state to IDLE. -/
theorem idleInv_wipe (h : AlwaysInv s) : IdleInv (wipe s) where
  always := ⟨h.params, h.bufWf, h.bufIn, (internalsZero_clearInternals s).1.widths, h.outcome⟩
  busy := rfl
  phase := rfl
  zero := internalsZero_clearInternals s

/-- The parameter-failure path goes to WIPE. -/
theorem WorkInv.raise (h : WorkInv s) {e : Detail} (he : outcomeAgrees .invalidParameters e = true) :
    WipeInv (raiseInvalidParameters e s) :=
  ⟨h.always.update h.always.bufOk he, h.busy, h.done, rfl⟩

/-- A step that reports its outcome and goes to WIPE, with what it wrote to BUF. -/
theorem WorkInv.finish (h : WorkInv s) {m : Mem} (hm : BufOk s m) {r : Result} {e : Detail}
    (ho : outcomeAgrees r e = true) (outLen : Word) :
    WipeInv { s with buf := m, result := r, detail := e, outLen := outLen, phase := .wipe } :=
  ⟨h.always.update hm ho, h.busy, h.done, rfl⟩

/-! From a state in which nothing is latched. -/

/-- BUFCLR is ZEROIZE's or the one that follows reset. -/
theorem FreshInv.step_bufclr {t : State} (h : FreshInv s) (hph : s.phase = .bufclr)
    (hs : sequenceOf s.op s = .next t) : MachineInv t := by
  have hpair := h.work.pair
  rw [hph] at hpair
  simp only [reachablePair, Bool.or_eq_true, beq_iff_eq] at hpair
  obtain hop | hop := hpair
  · have hstep : sequenceOf s.op s = .next (zeroizeBuf s) := by
      rw [hop]
      show zeroizeSequence s = _
      rw [zeroizeSequence, hph]
    cases hstep.symm.trans hs
    exact (h.work.finish (bufOk_nil s) (r := .ok) (e := .none) rfl 0#32).machineInv
  · have hstep : sequenceOf s.op s = .next (resetClear s) := by
      rw [hop]
      show resetTurn s = _
      rw [resetTurn, hph]
    cases hstep.symm.trans hs
    exact IdleInv.machineInv
      ⟨h.work.always.update (bufOk_nil s) h.work.always.outcome, rfl, rfl, h.zero, hop⟩

theorem FreshInv.step_prim {t : State} (h : FreshInv s) (hph : s.phase = .prim)
    (hs : sequenceOf s.op s = .next t) : MachineInv t := by
  obtain ⟨o, -, hop, -⟩ := h.prim hph
  rw [hop, sequenceOf_primOp, primSequence_prim hph] at hs
  obtain ⟨D, -, -, -, hout, rfl⟩ := primStep_next hs
  refine (h.work.finish (h.work.always.bufOk.writeBytes ?_ hout) (r := .ok) (e := .none) rfl _).machineInv
  exact primOutput_length _ _ _ _ _

theorem FreshInv.primCheckStep {o : PrimOp} {t : State} (h : FreshInv s) (hop : s.op = o.op)
    (hs : primCheckStep o s = .next t) : MachineInv t := by
  obtain ⟨e, he, rfl⟩ | ⟨D, hD, rfl⟩ := primCheckStep_next hs
  · exact (h.work.raise (primCheck_error_agrees he)).machineInv
  · have hpair : reachablePair .prim s.op = true := by rw [hop]; cases o <;> rfl
    exact FreshInv.machineInv ⟨h.work.toPhase hpair, .inr (.inr rfl), h.zero, fun _ => ⟨o, D, hop, hD⟩⟩

/-- A CHECK that passes latches its operands above zeros (R61, R62, R64, R208). -/
theorem FreshInv.afterCheck {d : Dir} {P : Profile} (h : FreshInv s) (hop : s.op = d.op)
    (hP : aeadCheck d s = .ok P) : AeadInv d P (afterCheck d P s) := by
  obtain ⟨hprofile, -⟩ := aeadCheck_eq_ok.mp hP
  obtain ⟨-, -, -, -, -, -, -, hkey, -, hnonce, -, htag⟩ :=
    Profile.wf_ranges (profile_wf_of_params h.work.always.params (lookupProfile_mem hprofile).1)
  obtain ⟨hst, -, -, htc, hts, hmask, -⟩ := h.zero
  obtain ⟨hstLen, -, -, htcLen, htsLen⟩ := h.work.always.widths
  have ha := h.work.always
  have hpair : reachablePair .init s.op = true := by rw [hop]; cases d <;> rfl
  have htsOk : (Machine.afterCheck d P s).ts.length = Config.latchBytes ∧
      (Machine.afterCheck d P s).ts.drop P.tagLen = zeros (Config.latchBytes - P.tagLen) ∧
      (d = .enc → (Machine.afterCheck d P s).ts = zeros Config.latchBytes) := by
    cases d with
    | enc => exact ⟨htsLen, (congrArg _ hts).trans (drop_zeros _ _), fun _ => hts⟩
    | dec => exact ⟨fit_length _ _, drop_fit_readBytes _ _ htag, fun he => nomatch he⟩
  have halways : AlwaysInv (Machine.afterCheck d P s) :=
    ⟨ha.params, ha.bufWf, ha.bufIn, ⟨hstLen, fit_length _ _, fit_length _ _, htcLen, htsOk.1⟩, ha.outcome⟩
  exact {
    work := h.work.update halways hpair
    op := hop
    phase := rfl
    running := {
      checked := ((afterCheck_frame d P s).aeadCheck_eq d).trans hP
      mLen := (afterCheck_mLen d P s).trans ((afterCheck_frame d P s).messageLen_eq d P).symm
      position := ⟨rfl, rfl⟩
      st := (congrArg _ hst).trans (drop_zeros _ _)
      stInit := fun _ => hst
      kl := drop_fit_readBytes _ _ hkey
      nl := drop_fit_readBytes _ _ hnonce
      tc := (congrArg _ htc).trans (drop_zeros _ _)
      ts := htsOk.2
      mask := .inl hmask } }

theorem FreshInv.aeadCheckStep {d : Dir} {t : State} (h : FreshInv s) (hop : s.op = d.op)
    (hs : aeadCheckStep d s = .next t) : MachineInv t := by
  obtain ⟨e, he, rfl⟩ | ⟨P, hP, rfl⟩ := aeadCheckStep_next hs
  · exact (h.work.raise (aeadCheck_error_agrees he)).machineInv
  · exact (h.afterCheck hop hP).machineInv

/-- CHECK of every command (R206). -/
theorem FreshInv.step_check {t : State} (h : FreshInv s) (hph : s.phase = .check)
    (hs : sequenceOf s.op s = .next t) : MachineInv t := by
  obtain ⟨hop, -⟩ | ⟨d, hop, hseq⟩ | ⟨o, hop, hseq⟩ | ⟨hop, hseq⟩ | hseq := sequenceOf_cases s.op
  · have hpair := h.work.pair
    rw [hph, hop] at hpair
    cases hpair
  · rw [hseq, Dir.sequence_check hph] at hs
    exact h.aeadCheckStep hop hs
  · rw [hseq, primSequence_check hph] at hs
    exact h.primCheckStep hop hs
  · rw [hseq, zeroizeSequence, hph] at hs
    cases hs
    have hpair : reachablePair .bufclr s.op = true := by rw [hop]; rfl
    exact FreshInv.machineInv ⟨h.work.toPhase hpair, .inr (.inl rfl), h.zero, fun hprim => nomatch hprim⟩
  · rw [hseq, reservedSequence, hph] at hs
    cases hs
    exact (h.work.raise rfl).machineInv

theorem FreshInv.step {t : State} (h : FreshInv s) (hs : sequenceOf s.op s = .next t) : MachineInv t := by
  obtain hph | hph | hph := h.phase
  · exact h.step_check hph hs
  · exact h.step_bufclr hph hs
  · exact h.step_prim hph hs

end

/-! Between a passed CHECK of ENCRYPT or DECRYPT and WIPE. -/

theorem positionOk_init {s : State} (h : s.phase = .init) : positionOk s ↔ s.adOff = 0#32 ∧ s.mOff = 0#32 := by
  rw [positionOk, h]

theorem positionOk_ad {s : State} (h : s.phase = .ad) :
    positionOk s ↔ midPhase s.adLen.toNat s.adOff.toNat ∧ s.mOff = 0#32 := by
  rw [positionOk, h]

theorem positionOk_msg {s : State} (h : s.phase = .msg) :
    positionOk s ↔ s.adOff = s.adLen ∧ midPhase s.mLen.toNat s.mOff.toNat := by
  rw [positionOk, h]

theorem positionOk_final {s : State} (h : s.phase = .final) :
    positionOk s ↔ s.adOff = s.adLen ∧ s.mOff = s.mLen := by
  rw [positionOk, h]

theorem midPhase_zero (len : Nat) : midPhase len 0 :=
  (Nat.eq_zero_or_pos len).elim (fun h => .inr ⟨h, rfl⟩) .inl

/-- An offset that has reached the end of its phase is the phase's length. -/
theorem offset_eq_of_end {len off : Word} (h : midPhase len.toNat off.toNat) {u : Nat} {ph : PadPhase}
    (hend : len.toNat ≤ off.toNat + (classify len.toNat off.toNat u ph).1) :
    BitVec.ofNat 32 (off.toNat + (classify len.toNat off.toNat u ph).1) = len := by
  obtain ⟨hle, hexact⟩ := offset_add_classify h u ph
  exact BitVec.eq_of_toNat_eq (hexact.trans (le_antisymm hle hend))

theorem midPhase_of_not_end {len off : Word} (h : midPhase len.toNat off.toNat) {u : Nat} {ph : PadPhase}
    (hend : ¬ len.toNat ≤ off.toNat + (classify len.toNat off.toNat u ph).1) :
    midPhase len.toNat (BitVec.ofNat 32 (off.toNat + (classify len.toNat off.toNat u ph).1)).toNat := by
  obtain ⟨-, hexact⟩ := offset_add_classify h u ph
  rw [hexact]
  exact .inl (not_le.mp hend)

section
variable {d : Dir} {P : Profile} {s t : State}

theorem AeadInv.profile (h : AeadInv d P s) : profileOf s = some P := (aeadCheck_eq_ok.mp h.running.checked).1

theorem AeadInv.profile_wf (h : AeadInv d P s) : P.wf s.params.sMax = true :=
  profile_wf_of_params h.work.always.params (lookupProfile_mem h.profile).1

/-- MASK is 0 until VERIFY writes it (R65). -/
theorem AeadInv.mask_zero (h : AeadInv d P s) (hph : s.phase ≠ .scrub) : s.mask = 0#8 :=
  h.running.mask.resolve_right fun hs => hph hs.1

/-- INIT, AD and MSG write ST, an offset and BUF, and go to AD, MSG or FINAL. -/
theorem AeadInv.advance (h : AeadInv d P s) (hmask : s.phase ≠ .scrub) {m : Mem} (hm : BufOk s m) {st : Bytes}
    (hlen : st.length = s.params.sMax) (hst : st.drop P.stateBytes = zeros (s.params.sMax - P.stateBytes))
    {ph : Phase} (hph : ph = .ad ∨ ph = .msg ∨ ph = .final) {adOff mOff : Word}
    (hpos : positionOk { s with buf := m, st := st, adOff := adOff, mOff := mOff, phase := ph }) :
    AeadInv d P { s with buf := m, st := st, adOff := adOff, mOff := mOff, phase := ph } := by
  have ha := h.work.always
  have hr := h.running
  obtain ⟨-, hlatches⟩ := ha.widths
  have hpair : reachablePair ph s.op = true := by
    rw [h.op]
    obtain rfl | rfl | rfl := hph <;> cases d <;> rfl
  exact {
    work := h.work.update ⟨ha.params, hm.1, hm.2, ⟨hlen, hlatches⟩, ha.outcome⟩ hpair
    op := h.op
    phase := by obtain rfl | rfl | rfl := hph <;> rfl
    running := {
      checked := ((engineFrame_update s).aeadCheck_eq d).trans hr.checked
      mLen := hr.mLen.trans ((engineFrame_update s).messageLen_eq d P).symm
      position := hpos
      st := hst
      stInit := fun he => by obtain rfl | rfl | rfl := hph <;> cases he
      kl := hr.kl
      nl := hr.nl
      tc := hr.tc
      ts := hr.ts
      mask := .inl (h.mask_zero hmask) } }

/-- A profile's new state at the start of ST leaves the zeros after it (R60). -/
theorem AeadInv.newState (h : AeadInv d P s) {S : Bytes} (hS : S.length = P.stateBytes) :
    (S ++ s.st.drop P.stateBytes).length = s.params.sMax ∧
    (S ++ s.st.drop P.stateBytes).drop P.stateBytes = zeros (s.params.sMax - P.stateBytes) := by
  obtain ⟨-, -, -, -, -, hstate, -⟩ := Profile.wf_ranges h.profile_wf
  obtain ⟨hlen, -⟩ := h.work.always.widths
  refine ⟨?_, by rw [List.drop_left' hS, h.running.st]⟩
  rw [List.length_append, List.length_drop, hS, hlen]
  omega

theorem AeadInv.step_init (h : AeadInv d P s) (hph : s.phase = .init) (hs : initStep s = .next t) :
    MachineInv t := by
  obtain ⟨-, -, -, -, -, hstate, -⟩ := Profile.wf_ranges h.profile_wf
  obtain ⟨hadOff, hmOff⟩ := (positionOk_init hph).mp h.running.position
  rw [initStep_eq h.profile] at hs
  cases hs
  have hst : (fit s.params.sMax (famInit P (s.kl.take P.keyLen) (s.nl.take P.nonceLen))).drop P.stateBytes
      = zeros (s.params.sMax - P.stateBytes) := by
    rw [fit_famInit _ _ _ hstate, List.drop_left' (famInit_length _ _ _)]
  refine (h.advance (by simp [hph]) h.work.always.bufOk (fit_length _ _) hst (.inl rfl) ?_).machineInv
  refine (positionOk_ad rfl).mpr ⟨?_, hmOff⟩
  show midPhase s.adLen.toNat s.adOff.toNat
  rw [hadOff]
  exact midPhase_zero _

theorem AeadInv.step_ad (h : AeadInv d P s) (hph : s.phase = .ad) (hs : adStep s = .next t) : MachineInv t := by
  obtain ⟨hmid, hmOff⟩ := (positionOk_ad hph).mp h.running.position
  obtain ⟨Q, hQ, -, rfl⟩ := adStep_next hs
  obtain rfl : P = Q := Option.some.inj (h.profile.symm.trans hQ)
  obtain ⟨hlen, hst⟩ := h.newState (famAbsorb_length P _ _ _ _)
  refine (h.advance (by simp [hph]) h.work.always.bufOk hlen hst ?_ ?_).machineInv
  · exact (ite_eq_or_eq _ _ _).elim (fun he => .inr (.inl he)) .inl
  · by_cases hend : s.adLen.toNat ≤ s.adOff.toNat + (adBlock P s).1
    · rw [if_pos hend]
      refine (positionOk_msg rfl).mpr ⟨offset_eq_of_end hmid hend, ?_⟩
      show midPhase s.mLen.toNat s.mOff.toNat
      rw [hmOff]
      exact midPhase_zero _
    · rw [if_neg hend]
      exact (positionOk_ad rfl).mpr ⟨midPhase_of_not_end hmid hend, hmOff⟩

theorem AeadInv.step_msg (h : AeadInv d P s) (hph : s.phase = .msg) (hs : msgStep d s = .next t) :
    MachineInv t := by
  obtain ⟨hadOff, hmid⟩ := (positionOk_msg hph).mp h.running.position
  obtain ⟨Q, hQ, -, hout, rfl⟩ := msgStep_next hs
  obtain rfl : P = Q := Option.some.inj (h.profile.symm.trans hQ)
  obtain ⟨hlen, hst⟩ := h.newState (msgOutput_fst_length d P _ s)
  refine (h.advance (by simp [hph]) (h.work.always.bufOk.writeBytes ?_ hout) hlen hst ?_ ?_).machineInv
  · exact msgOutput_snd_length _ _ _ _
  · exact (ite_eq_or_eq _ _ _).elim (fun he => .inr (.inr he)) (fun he => .inr (.inl he))
  · by_cases hend : s.mLen.toNat ≤ s.mOff.toNat + (msgBlock P s).1
    · rw [if_pos hend]
      exact (positionOk_final rfl).mpr ⟨hadOff, offset_eq_of_end hmid hend⟩
    · rw [if_neg hend]
      exact (positionOk_msg rfl).mpr ⟨hadOff, midPhase_of_not_end hmid hend⟩

/-- FINAL of DECRYPT and VERIFY write TC and MASK. -/
theorem AeadInv.verify (h : AeadInv .dec P s) (hpos : s.adOff = s.adLen ∧ s.mOff = s.mLen) {tc : Bytes}
    (hlen : tc.length = Config.latchBytes) (htc : tc.drop P.tagLen = zeros (Config.latchBytes - P.tagLen))
    {ph : Phase} (hph : ph = .verify ∨ ph = .scrub) {mask : Byte}
    (hmask : mask = 0#8 ∨ (ph = .scrub ∧ mask = 0xFF#8)) :
    AeadInv .dec P { s with tc := tc, mask := mask, phase := ph } := by
  have ha := h.work.always
  have hr := h.running
  obtain ⟨hstLen, hklLen, hnlLen, -, htsLen⟩ := ha.widths
  have hpair : reachablePair ph s.op = true := by
    rw [h.op]
    obtain rfl | rfl := hph <;> rfl
  exact {
    work := h.work.update ⟨ha.params, ha.bufWf, ha.bufIn, ⟨hstLen, hklLen, hnlLen, hlen, htsLen⟩, ha.outcome⟩ hpair
    op := h.op
    phase := by obtain rfl | rfl := hph <;> rfl
    running := {
      checked := ((engineFrame_update s).aeadCheck_eq .dec).trans hr.checked
      mLen := hr.mLen.trans ((engineFrame_update s).messageLen_eq .dec P).symm
      position := by obtain rfl | rfl := hph <;> exact hpos
      st := hr.st
      stInit := fun he => by obtain rfl | rfl := hph <;> cases he
      kl := hr.kl
      nl := hr.nl
      tc := htc
      ts := hr.ts
      mask := hmask } }

theorem AeadInv.step_final (h : AeadInv d P s) (hph : s.phase = .final) (hs : finalStep d s = .next t) :
    MachineInv t := by
  obtain ⟨-, -, -, -, -, -, -, -, -, -, -, htag⟩ := Profile.wf_ranges h.profile_wf
  have hpos := (positionOk_final hph).mp h.running.position
  obtain ⟨Q, hQ, hcases⟩ := finalStep_next hs
  obtain rfl : P = Q := Option.some.inj (h.profile.symm.trans hQ)
  obtain ⟨rfl, rfl⟩ | ⟨rfl, hout, rfl⟩ := hcases
  · exact (h.verify hpos (fit_length _ _) (drop_fit_computedTag P s htag) (.inl rfl)
      (.inl (h.mask_zero (by simp [hph])))).machineInv
  · have ha := h.work.always
    obtain ⟨hstLen, hklLen, hnlLen, -, htsLen⟩ := ha.widths
    obtain ⟨hwf, hbelow⟩ := ha.bufOk.writeBytes (computedTag_length P s) hout
    exact WipeInv.machineInv
      ⟨⟨ha.params, hwf, hbelow, ⟨hstLen, hklLen, hnlLen, fit_length _ _, htsLen⟩, rfl⟩, h.work.busy, h.work.done, rfl⟩

theorem AeadInv.step_verify (h : AeadInv .dec P s) (hph : s.phase = .verify) (hs : verifyStep s = .next t) :
    MachineInv t := by
  have hpos : s.adOff = s.adLen ∧ s.mOff = s.mLen := by
    have hposition := h.running.position
    rwa [positionOk, hph] at hposition
  obtain ⟨-, -, -, htcLen, -⟩ := h.work.always.widths
  rw [verifyStep_eq h.profile] at hs
  cases hs
  refine (h.verify hpos htcLen h.running.tc (.inr rfl) ?_).machineInv
  exact (ctMask_cases s.tc s.ts P.tagLen).elim (fun he => .inr ⟨rfl, he⟩) .inl

theorem AeadInv.step_scrub (h : AeadInv d P s) (hs : scrubStep s = .next t) : MachineInv t := by
  obtain ⟨hout, rfl⟩ := scrubStep_next hs
  have hm := h.work.always.bufOk.writeBytes
    (bs := (s.buf.readBytes s.outPtr.toNat s.mLen.toNat).map (fun b => b &&& s.mask)) (by simp) hout
  refine (h.work.finish hm ?_ _).machineInv
  cases s.mask.getLsbD 0 <;> rfl

/-- A phase only DECRYPT has. -/
theorem AeadInv.dir_eq_dec (h : AeadInv d P s) (hph : s.phase = .verify ∨ s.phase = .scrub) : d = .dec := by
  cases d with
  | dec => rfl
  | enc =>
    have hpair := h.work.pair
    rw [h.op] at hpair
    obtain he | he := hph <;> rw [he] at hpair <;> cases hpair

theorem AeadInv.step (h : AeadInv d P s) (hs : sequenceOf s.op s = .next t) : MachineInv t := by
  rw [h.op, sequenceOf_dirOp] at hs
  have haead := h.phase
  cases hph : s.phase with
  | init => exact h.step_init hph ((Dir.sequence_init hph).symm.trans hs)
  | ad => exact h.step_ad hph ((Dir.sequence_ad hph).symm.trans hs)
  | msg => exact h.step_msg hph ((Dir.sequence_msg hph).symm.trans hs)
  | final => exact h.step_final hph ((Dir.sequence_final hph).symm.trans hs)
  | verify =>
    obtain rfl := h.dir_eq_dec (.inl hph)
    exact h.step_verify hph ((Dir.sequence_verify hph).symm.trans hs)
  | scrub =>
    obtain rfl := h.dir_eq_dec (.inr hph)
    exact h.step_scrub ((Dir.sequence_scrub hph).symm.trans hs)
  | idle | check | wipe | prim | bufclr =>
    rw [hph] at haead
    cases haead

end

/-! The sequencer, the host and a reset. -/

section
variable {s t : State}

theorem sequencerTurn_keeps (h : MachineInv s) (hs : sequencerTurn s = .next t) : MachineInv t := by
  obtain hidle | hwipe | hfresh | ⟨d, P, haead⟩ := h.cases
  · rw [sequencerTurn_idle hidle.busy] at hs
    cases hs
    exact h
  · rw [sequencerTurn_busy hwipe.busy, sequenceOf_wipe _ hwipe.phase] at hs
    cases hs
    exact (idleInv_wipe hwipe.always).machineInv
  · exact hfresh.step ((sequencerTurn_busy hfresh.work.busy).symm.trans hs)
  · exact haead.step ((sequencerTurn_busy haead.work.busy).symm.trans hs)

/-- The invariant leaves CTRL.IE, HOSTERR, the pending events and the last response free, and DONE may be cleared. -/
theorem MachineInv.hostUpdate (h : MachineInv s) {ie done hostErr : Bool} {agenda : List Event}
    {response : BusResponse} (hdone : s.done = false → done = false) :
    MachineInv { s with ie := ie, done := done, hostErr := hostErr, agenda := agenda, response := response } where
  params := h.params
  bufWf := h.bufWf
  bufIn := h.bufIn
  widths := h.widths
  idle := h.idle
  running := fun hb => (h.running hb).imp id hdone
  outcome := h.outcome
  pending := h.pending
  fresh := h.fresh
  aead := fun d hb hop hph => by
    obtain ⟨P, hr⟩ := h.aead d hb hop hph
    exact ⟨P, hr.checked, hr.mLen, hr.position, hr.st, hr.stInit, hr.kl, hr.nl, hr.tc, hr.ts, hr.mask⟩
  prim := h.prim

/-- A reset leaves nothing latched and the buffer clear due (R350). -/
theorem freshInv_resetState (h : AlwaysInv s) : FreshInv (resetState s) := by
  obtain ⟨hzero, -⟩ := internalsZero_clearInternals s
  obtain ⟨hwf, hbelow⟩ := bufOk_unspecified s s.freeCount
  have halways : AlwaysInv (resetState s) := ⟨h.params, hwf, hbelow, hzero.widths, rfl⟩
  exact ⟨⟨halways, rfl, rfl, rfl, rfl, rfl, rfl⟩, .inr (.inl rfl), hzero, fun hph => nomatch hph⟩

theorem MachineInv.idleInv (h : MachineInv s) (hb : s.busy = false) : IdleInv s :=
  ⟨h.always, hb, (h.idle hb).1, (h.idle hb).2⟩

theorem IdleInv.of_onlyOperands (h : IdleInv s) (ho : OnlyOperands s t) : IdleInv t := by
  unfold OnlyOperands at ho
  rw [ho]
  exact ⟨⟨h.always.params, h.always.bufWf, h.always.bufIn, h.always.widths, h.always.outcome⟩, h.busy, h.phase, h.zero⟩

theorem MachineInv.writeCtrl (h : MachineInv s) (v : Word) : MachineInv (writeCtrl v s) := by
  cases hv : v.getLsbD 1 with
  | true =>
    rw [writeCtrl_srst hv]
    exact (freshInv_resetState h.always).machineInv
  | false =>
    rw [writeCtrl_no_srst hv]
    exact h.hostUpdate id

theorem MachineInv.of_hostEffect (h : MachineInv s) (he : HostEffect s t) : MachineInv t := by
  obtain rfl | ⟨-, rfl⟩ | ⟨v, rfl⟩ | ⟨v, rfl⟩ | ⟨hb, ho⟩ | ⟨hb, a, bs, hin, rfl⟩ := he
  · exact h
  · exact h.hostUpdate id
  · exact h.writeCtrl v
  · exact h.hostUpdate fun hd => by rw [hd, Bool.false_and]
  · exact ((h.idleInv hb).of_onlyOperands ho).machineInv
  · have hidle := h.idleInv hb
    have hm := hidle.always.bufOk.writeBytes (bs := bs) rfl (.inr hin)
    exact IdleInv.machineInv
      ⟨hidle.always.update hm hidle.always.outcome, hidle.busy, hidle.phase, hidle.zero⟩

/-- Only NOP's word latches 0 (R66, R270). -/
theorem decode_eq_nop_of_opLatch {w : Word} (h : opLatch w = 0#4) : decode w = .nop := by
  unfold opLatch at h
  split at h
  next hhigh =>
    rw [decode, if_pos hhigh, h]
    rfl
  next => exact absurd h (by decide)

/-- An accepted command is about to take its CHECK step with nothing latched (R270). -/
theorem IdleInv.acceptCommand (h : IdleInv s) {op : BitVec 4} (hop : op ≠ 0#4) :
    FreshInv (acceptCommand op s) where
  work := ⟨h.always.update h.always.bufOk rfl, rfl, rfl, rfl, rfl, rfl, bne_iff_ne.mpr hop⟩
  phase := .inl rfl
  zero := h.zero.1
  prim := fun hph => nomatch hph

theorem IdleInv.command (h : IdleInv s) {w : Word} (hs : exec (decode w) s = .next t) : MachineInv t := by
  rw [exec_idle (wf_decode w) h.busy, encode_decode] at hs
  split at hs
  next =>
    cases hs
    exact h.machineInv
  next hne =>
    cases hs
    exact (h.acceptCommand fun h0 => hne (decode_eq_nop_of_opLatch h0)).machineInv

theorem hostTurn_keeps {x : Txn} (h : MachineInv s) (hs : hostTurn x s = .next t) : MachineInv t := by
  unfold hostTurn at hs
  split at hs
  next u hu =>
    cases hs
    obtain ⟨u', r, heff, rfl⟩ := busAccess_done hu
    exact (h.of_hostEffect heff).hostUpdate id
  next w u hu =>
    obtain ⟨hb, -, rfl⟩ := busAccess_command hu
    have hrespond : MachineInv (respond .written s) := h.hostUpdate id
    exact (hrespond.idleInv hb).command hs
  next => cases hs

end

/-- Settles O47, by the event a step takes: a sequencer turn, a host transaction or a reset. -/
theorem invariantKept : Obligations.InvariantKept := by
  intro s t h hs
  have hrest (rest : List Event) : MachineInv { s with agenda := rest } := h.hostUpdate id
  unfold step at hs
  split at hs
  next => exact sequencerTurn_keeps h hs
  next rest _ => exact sequencerTurn_keeps (hrest rest) hs
  next x rest _ => exact hostTurn_keeps (hrest rest) hs
  next rest _ =>
    cases hs
    exact (freshInv_resetState (hrest rest).always).machineInv

end Sys2Proof.Machine
end

/-! Prover's lemmas, 43_verifier.md: the comparator, VERIFY and SCRUB, and DECRYPT with a wrong tag (R251 to R258). -/
section
namespace Sys2Proof.Machine

/-! The comparator (R250, R251). -/

theorem setWidth_xor_eq_zero {x y : Byte} : (x ^^^ y).setWidth 16 = 0#16 ↔ x = y := by
  rw [← BitVec.toNat_inj, BitVec.toNat_setWidth_of_le (by decide), ← BitVec.xor_eq_zero_iff, ← BitVec.toNat_inj]
  rfl

/-- The accumulator is 0 exactly where no byte differs: an OR is 0 where both its operands are. -/
theorem tagAcc_eq_zero_iff (a b : Bytes) (t : Nat) : tagAcc a b t = 0#16 ↔ ∀ i < t, byteAt a i = byteAt b i := by
  induction t with
  | zero => simp [tagAcc]
  | succ t ih => rw [tagAcc, BitVec.or_eq_zero_iff, ih, setWidth_xor_eq_zero, Nat.forall_lt_succ_right]

theorem take_eq_map_byteAt {a : Bytes} {t : Nat} (h : t ≤ a.length) : a.take t = (List.range t).map (byteAt a) := by
  refine List.ext_getElem (by simp [h]) fun i hi _ => ?_
  have hia : i < a.length := by
    rw [List.length_take] at hi
    omega
  simp [byteAt, hia]

/-- The accumulator is 0 exactly where the first `t` bytes of both strings agree. -/
theorem tagAcc_eq_zero_iff_take {a b : Bytes} {t : Nat} (ha : t ≤ a.length) (hb : t ≤ b.length) :
    tagAcc a b t = 0#16 ↔ a.take t = b.take t := by
  rw [tagAcc_eq_zero_iff, take_eq_map_byteAt ha, take_eq_map_byteAt hb, List.map_inj_left]
  simp only [List.mem_range]

theorem ctMask_eq_of_le {a b : Bytes} {t : Nat} (ha : t ≤ a.length) (hb : t ≤ b.length) :
    ctMask a b t = if a.take t = b.take t then 0xFF#8 else 0x00#8 := by
  rw [ctMask_eq]
  exact if_congr (tagAcc_eq_zero_iff_take ha hb) rfl rfl

/-- Settles O17: the mask is all ones exactly where the accumulator, the OR of the byte differences, is 0. -/
theorem comparatorMask : Obligations.ComparatorMask := by
  intro a b t _ _ ha hb
  have hmask := ctMask_eq_of_le ha hb
  refine ⟨hmask, ?_⟩
  rw [ctEq, hmask]
  by_cases h : a.take t = b.take t
  · simp [h]
  · simp [h]

/-! VERIFY (R252). -/

/-- Settles O15: in PHASE = VERIFY exec of DECRYPT is the VERIFY step, which raises nothing. -/
theorem verifyStep_holds : Obligations.VerifyStep := by
  intro P s hp hsel hrun
  have hexec : exec .decrypt s = verifyStep s :=
    (exec_aeadInstr (d := .dec) hrun).trans (Dir.sequence_verify hrun.phase_eq)
  exact hexec.trans (verifyStep_eq (profileOf_of_selects hp hsel))

/-! SCRUB (R254). -/

/-- A payload byte after the pass that ANDs every payload byte with a mask. -/
theorem Mem.read_scrubbed {m : Mem} (hm : m.wf = true) (a : Nat) {n k : Nat} (hk : k < n) (mask : Byte) :
    (m.writeBytes a ((m.readBytes a n).map (fun b => b &&& mask))).read (a + k) = m.read (a + k) &&& mask := by
  have hzero : (0#8 : Byte) = 0#8 &&& mask := BitVec.zero_and.symm
  rw [Mem.read_writeBytes _ _ _ hm, if_pos (by simpa using hk), Nat.add_sub_cancel_left, hzero,
    List.getD_map (f := fun b : Byte => b &&& mask), Mem.readBytes_getD m a n k hk]

theorem scrubResult_code (g : Bool) : (scrubResult g).code = 2 * (1 - g.toNat) := by
  cases g <;> rfl

theorem scrubDetail_code (g : Bool) : (scrubDetail g).code = 13 * (1 - g.toNat) := by
  cases g <;> rfl

/-- Settles O16: SCRUB stores as many bytes as it reads, so nothing outside the payload changes. -/
theorem scrubStep_holds : Obligations.ScrubStep := by
  intro s hm hrun hin g
  have hexec : exec .decrypt s = scrubStep s :=
    (exec_aeadInstr (d := .dec) hrun).trans (Dir.sequence_scrub hrun.phase_eq)
  refine ⟨_, hexec.trans (scrubStep_eq hin), fun k hk => Mem.read_scrubbed hm _ hk _,
    fun b hb => Mem.read_writeBytes_outside hm (by simpa using hb), scrubResult_code _, scrubDetail_code _, rfl⟩

/-! DECRYPT of an ENCRYPT's ciphertext with another tag (R202, R258). -/

theorem map_and_zeros (b : Bytes) : b.map (fun x => x &&& 0x00#8) = zeros b.length := by
  simp [List.map_const']

/-- Two different tags give the mask 0. -/
theorem ctMask_of_ne {a b : Bytes} {t : Nat} (ha : a.length = t) (hb : b.length = t) (h : a ≠ b) :
    ctMask a b t = 0x00#8 := by
  rw [ctMask_eq_of_le ha.ge hb.ge, List.take_of_length_le ha.le, List.take_of_length_le hb.le, if_neg h]

/-- AEAD_Dec of AEAD_Enc's ciphertext with another tag recovers the plaintext and scrubs it (R233, R258). -/
theorem aeadDec_of_wrong_tag {P : Profile} (hlaw : EncDecLaw P) (hu : 1 ≤ P.unitMsg) {K N A X T : Bytes}
    (hT : T.length = P.tagLen) (hne : T ≠ (aeadEncParts P K N A X).2) :
    aeadDec P K N A (aeadEncParts P K N A X).1 T = (zeros X.length, false) := by
  have hmask : ctMask (aeadEncParts P K N A X).2 T P.tagLen = 0x00#8 :=
    ctMask_of_ne (famFinalize_length P _ K N) hT hne.symm
  simp only [aeadDec, aeadDecParts_aeadEncParts hlaw hu, hmask, map_and_zeros]
  rfl

/-- Settles O52: law ENC-DEC makes the computed tag ENCRYPT's, so any other supplied tag gives the mask 0. -/
theorem tagTampering : Obligations.TagTampering := by
  intro s P X hlaw hs hpass hX K N A hC hT
  have ⟨hp, _⟩ := hs
  obtain ⟨-, -, hunit, -⟩ := Profile.wf_ranges (hpass.1.profile_wf hp)
  obtain ⟨t, hrun, hout, -, hdone⟩ := aead_completes_with (d := .dec) hs hpass
  have hlen : outputLen .dec P s = X.length := hX.symm
  have hsupplied : suppliedTagPtr P s = s.inPtr.toNat + X.length := by rw [hX]; rfl
  have hdec : aeadDec P K N A (messageOf .dec P s) (suppliedTagOf P s) = (zeros X.length, false) := by
    have hmessage : messageOf .dec P s = (aeadEncParts P K N A X).1 := by rw [← hC, hX]; rfl
    rw [hmessage]
    exact aeadDec_of_wrong_tag hlaw hunit (Mem.readBytes_length _ _ _) (by rwa [suppliedTagOf, hsupplied])
  rw [outcomeOf, aeadOutcome_dec, hdec, hlen] at hout hdone
  exact ⟨t, hrun, hout, hdone⟩

end Sys2Proof.Machine
end

/-! Prover's lemmas, 43_verifier.md: no step's public part depends on the secret data (R176, R255, R372). -/
section
namespace Sys2Proof.Machine

/-! Public equality (R372). -/

/-- `s` with the secret data of `u`: the bytes of BUF and of the registers that hold data, the outcome's codes, what the
host read, and the model's counter of unspecified BUF contents. -/
def State.withSecretsOf (s u : State) : State :=
  { s with
    result := u.result
    detail := u.detail
    st := u.st
    kl := u.kl
    nl := u.nl
    tc := u.tc
    ts := u.ts
    mask := u.mask
    buf := u.buf
    response := u.response
    freeCount := u.freeCount }

theorem publicEqual_iff {s s' : State} : PublicEqual s s' ↔ s' = s.withSecretsOf s' := by
  constructor
  · rintro ⟨⟨hfamily, hkeyLen, hnonceLen, hkeyPtr, hnoncePtr, hadPtr, hadLen, hinPtr, hinLen, houtPtr, hpsel, hrounds,
      hstart⟩, hparams, hie, hbusy, hdone, hphase, hhostErr, houtLen, hop, hadOff, hmOff, hmLen, hagenda⟩
    rw [State.withSecretsOf, ← hfamily, ← hkeyLen, ← hnonceLen, ← hkeyPtr, ← hnoncePtr, ← hadPtr, ← hadLen, ← hinPtr,
      ← hinLen, ← houtPtr, ← hpsel, ← hrounds, ← hstart, ← hparams, ← hie, ← hbusy, ← hdone, ← hphase, ← hhostErr,
      ← houtLen, ← hop, ← hadOff, ← hmOff, ← hmLen, ← hagenda]
  · intro h
    rw [h]
    exact ⟨⟨rfl, rfl, rfl, rfl, rfl, rfl, rfl, rfl, rfl, rfl, rfl, rfl, rfl⟩, rfl, rfl, rfl, rfl, rfl, rfl, rfl, rfl,
      rfl, rfl, rfl, rfl⟩

theorem PublicEqual.of_eq {s s' : State} (h : s' = s.withSecretsOf s') : PublicEqual s s' := publicEqual_iff.mpr h

theorem publicEqual_ite {c : Prop} [Decidable c] {s t s' t' : State} (hs : PublicEqual s s') (ht : PublicEqual t t') :
    PublicEqual (if c then s else t) (if c then s' else t') := by
  split
  · exact hs
  · exact ht

/-- Whether `f` answers a next state, and the public part of that state, do not depend on the secret data. -/
def PublicStep (f : State → Out) : Prop :=
  ∀ s u t : State, f s = .next t → ∃ t' : State, f (s.withSecretsOf u) = .next t' ∧ PublicEqual t t'

theorem PublicStep.next {g : State → State} (h : ∀ s u, PublicEqual (g s) (g (s.withSecretsOf u))) :
    PublicStep fun s => .next (g s) := by
  intro s u t hs
  cases hs
  exact ⟨_, rfl, h s u⟩

/-- The phase is public, so a sequence may be treated phase by phase. -/
theorem PublicStep.of_phase {f g : State → Out} {ph : Phase} (hg : PublicStep g)
    (hfg : ∀ {s : State}, s.phase = ph → f s = g s) {s t : State} (hph : s.phase = ph) (h : f s = .next t)
    (u : State) : ∃ t' : State, f (s.withSecretsOf u) = .next t' ∧ PublicEqual t t' := by
  rw [hfg hph] at h
  rw [hfg (s := s.withSecretsOf u) hph]
  exact hg s u t h

/-! The steps of ENCRYPT and DECRYPT (R207 to R254): their conditions are about the operand registers, the offsets and
the parameters, and their outputs have lengths that are public too. -/

theorem publicStep_aeadCheckStep (d : Dir) : PublicStep (aeadCheckStep d) := by
  intro s u t h
  obtain ⟨e, he, rfl⟩ | ⟨P, hP, rfl⟩ := aeadCheckStep_next h
  · exact ⟨_, aeadCheckStep_error (s := s.withSecretsOf u) he, .of_eq rfl⟩
  · exact ⟨_, aeadCheckStep_ok (s := s.withSecretsOf u) hP, .of_eq rfl⟩

theorem publicStep_initStep : PublicStep initStep := by
  intro s u t h
  unfold initStep at h
  split at h
  next => cases h
  next P hP =>
    cases h
    exact ⟨_, initStep_eq (s := s.withSecretsOf u) hP, .of_eq rfl⟩

theorem publicStep_adStep : PublicStep adStep := by
  intro s u t h
  obtain ⟨P, hP, hin, rfl⟩ := adStep_next h
  exact ⟨_, adStep_eq (s := s.withSecretsOf u) hP hin, .of_eq rfl⟩

theorem publicStep_msgStep (d : Dir) : PublicStep (msgStep d) := by
  intro s u t h
  obtain ⟨P, hP, hin, hout, rfl⟩ := msgStep_next h
  exact ⟨_, msgStep_eq (s := s.withSecretsOf u) hP hin hout, .of_eq rfl⟩

theorem publicStep_finalStep (d : Dir) : PublicStep (finalStep d) := by
  intro s u t h
  obtain ⟨P, hP, ⟨rfl, rfl⟩ | ⟨rfl, hout, rfl⟩⟩ := finalStep_next h
  · exact ⟨_, finalStep_dec_eq (s := s.withSecretsOf u) hP, .of_eq rfl⟩
  · exact ⟨_, finalStep_enc_eq (s := s.withSecretsOf u) hP hout, .of_eq rfl⟩

/-- MASK is secret: VERIFY goes on to SCRUB whether or not the tags match (R252, R255). -/
theorem publicStep_verifyStep : PublicStep verifyStep := by
  intro s u t h
  obtain ⟨P, hP, rfl⟩ := verifyStep_next h
  exact ⟨_, verifyStep_eq (s := s.withSecretsOf u) hP, .of_eq rfl⟩

/-- SCRUB rewrites the same bytes of BUF, and sets the same OUT_LEN, for either MASK (R254, R255). -/
theorem publicStep_scrubStep : PublicStep scrubStep := by
  intro s u t h
  obtain ⟨hin, rfl⟩ := scrubStep_next h
  exact ⟨_, scrubStep_eq (s := s.withSecretsOf u) hin, .of_eq rfl⟩

theorem publicStep_wipe : PublicStep fun s => .next (wipe s) := .next fun _ _ => .of_eq rfl

theorem publicStep_sequence (d : Dir) : PublicStep d.sequence := by
  intro s u t h
  cases hph : s.phase with
  | check => exact (publicStep_aeadCheckStep d).of_phase Dir.sequence_check hph h u
  | init => exact publicStep_initStep.of_phase Dir.sequence_init hph h u
  | ad => exact publicStep_adStep.of_phase Dir.sequence_ad hph h u
  | msg => exact (publicStep_msgStep d).of_phase Dir.sequence_msg hph h u
  | final => exact (publicStep_finalStep d).of_phase Dir.sequence_final hph h u
  | wipe => exact publicStep_wipe.of_phase Dir.sequence_wipe hph h u
  | verify =>
    cases d with
    | dec => exact publicStep_verifyStep.of_phase Dir.sequence_verify hph h u
    | enc => simp [Dir.sequence, encryptSequence, hph] at h
  | scrub =>
    cases d with
    | dec => exact publicStep_scrubStep.of_phase Dir.sequence_scrub hph h u
    | enc => simp [Dir.sequence, encryptSequence, hph] at h
  | idle | prim | bufclr => cases d <;> simp [Dir.sequence, encryptSequence, decryptSequence, hph] at h

/-! The steps of the other commands (R150, R152, R232, R276). -/

theorem publicStep_primCheckStep (o : PrimOp) : PublicStep (primCheckStep o) := by
  intro s u t h
  obtain ⟨e, he, rfl⟩ | ⟨D, hD, rfl⟩ := primCheckStep_next h
  · exact ⟨_, primCheckStep_error (s := s.withSecretsOf u) he, .of_eq rfl⟩
  · exact ⟨_, primCheckStep_ok (s := s.withSecretsOf u) hD, .of_eq rfl⟩

theorem publicStep_primStep (o : PrimOp) : PublicStep (primStep o) := by
  intro s u t h
  obtain ⟨D, hD, hin, hkey, hout, rfl⟩ := primStep_next h
  exact ⟨_, primStep_eq (s := s.withSecretsOf u) hD hin hkey hout, .of_eq rfl⟩

theorem publicStep_primSequence (o : PrimOp) : PublicStep (primSequence o) := by
  intro s u t h
  cases hph : s.phase with
  | check => exact (publicStep_primCheckStep o).of_phase primSequence_check hph h u
  | prim => exact (publicStep_primStep o).of_phase primSequence_prim hph h u
  | wipe => exact publicStep_wipe.of_phase primSequence_wipe hph h u
  | _ => simp [primSequence, hph] at h

theorem publicStep_zeroizeSequence : PublicStep zeroizeSequence := by
  intro s u t h
  have hcheck : PublicStep fun s => .next { s with phase := .bufclr } := .next fun _ _ => .of_eq rfl
  have hclear : PublicStep fun s => .next (zeroizeBuf s) := .next fun _ _ => .of_eq rfl
  cases hph : s.phase with
  | check => exact hcheck.of_phase (fun hph => by rw [zeroizeSequence, hph]) hph h u
  | bufclr => exact hclear.of_phase (fun hph => by rw [zeroizeSequence, hph]) hph h u
  | wipe => exact publicStep_wipe.of_phase (fun hph => by rw [zeroizeSequence, hph]) hph h u
  | _ => simp [zeroizeSequence, hph] at h

theorem publicStep_reservedSequence : PublicStep reservedSequence := by
  intro s u t h
  have hraise : PublicStep fun s => .next (raiseInvalidParameters .badOpcode s) := .next fun _ _ => .of_eq rfl
  cases hph : s.phase with
  | check => exact hraise.of_phase (fun hph => by rw [reservedSequence, hph]) hph h u
  | wipe => exact publicStep_wipe.of_phase (fun hph => by rw [reservedSequence, hph]) hph h u
  | _ => simp [reservedSequence, hph] at h

theorem publicStep_resetTurn : PublicStep resetTurn := by
  intro s u t h
  have hclear : PublicStep fun s => .next (resetClear s) := .next fun _ _ => .of_eq rfl
  cases hph : s.phase with
  | bufclr => exact hclear.of_phase (fun hph => by rw [resetTurn, hph]) hph h u
  | wipe => exact publicStep_wipe.of_phase (fun hph => by rw [resetTurn, hph]) hph h u
  | _ => simp [resetTurn, hph] at h

theorem publicStep_sequenceOf (op : BitVec 4) : PublicStep (sequenceOf op) := by
  obtain ⟨-, hseq⟩ | ⟨d, -, hseq⟩ | ⟨o, -, hseq⟩ | ⟨-, hseq⟩ | hseq := sequenceOf_cases op
  · exact hseq ▸ publicStep_resetTurn
  · exact hseq ▸ publicStep_sequence d
  · exact hseq ▸ publicStep_primSequence o
  · exact hseq ▸ publicStep_zeroizeSequence
  · exact hseq ▸ publicStep_reservedSequence

/-- BUSY, OP and PHASE are public, so the sequencer takes the same step (R206). -/
theorem publicStep_sequencerTurn : PublicStep sequencerTurn := by
  intro s u t h
  cases hb : s.busy with
  | false =>
    rw [sequencerTurn_idle hb] at h
    cases h
    exact ⟨_, sequencerTurn_idle (s := s.withSecretsOf u) hb, .of_eq rfl⟩
  | true =>
    rw [sequencerTurn_busy hb] at h
    rw [sequencerTurn_busy (s := s.withSecretsOf u) hb]
    exact publicStep_sequenceOf s.op s u t h

/-! The host's transactions (R85 to R90): only the response, and through a write BUF, can be secret. -/

/-- The transaction gets a response, and `v` is the state it leaves but for that response. -/
def Leaves (x : Txn) (s v : State) : Prop := ∃ r : BusResponse, hostTurn x s = .next (respond r v)

theorem leaves_elsewhere {s : State} {x : Txn} (hoff : offsetOf s x.addr = none) : Leaves x s s :=
  ⟨.none, by rw [hostTurn, busAccess, hoff]⟩

theorem leaves_nothing {s : State} {x : Txn} {off : Nat} (hoff : offsetOf s x.addr = some off)
    (hl : legalAccess s off x.width = true) (hn : NothingAt s off) : Leaves x s s := by
  rw [Leaves, hostTurn, busAccess_of_offset hoff]
  cases x.op with
  | read => rw [accessOffset_read hl, readOffset_nothing hn]; exact ⟨_, rfl⟩
  | write v => rw [accessOffset_write hl, writeOffset_nothing hn]; exact ⟨_, rfl⟩

/-- A transaction in the BUF window is dropped while BUSY = 1, and else changes BUF or nothing (R83, R88). -/
theorem leaves_window {s : State} {x : Txn} {off : Nat} (hoff : offsetOf s x.addr = some off)
    (hl : legalAccess s off x.width = true) (hr : regionOf s off = .window) :
    ∃ m : Mem, Leaves x s (if s.busy then dropTransaction s else { s with buf := m }) := by
  simp only [Leaves, hostTurn, busAccess_of_offset hoff]
  cases x.op with
  | read =>
    rw [accessOffset_read hl, readOffset_window hr]
    refine ⟨s.buf, ?_⟩
    by_cases hb : s.busy = true
    · rw [if_pos hb, if_pos hb]
      exact ⟨_, rfl⟩
    · rw [if_neg hb, if_neg hb]
      exact ⟨_, rfl⟩
  | write v =>
    rw [accessOffset_write hl, writeOffset_window hr]
    exact ⟨_, _, rfl⟩

theorem leaves_read (s : State) (r : HostReg) : Leaves (regTxn s r .read) s s := ⟨_, step_readReg s r⟩

theorem leaves_write {s v : State} {r : HostReg} {w : Word} (h : writeReg s r w = .done v) :
    Leaves (regTxn s r (.write w)) s v := ⟨_, step_writeReg h⟩

/-- The response is not public, so it is enough that the states a transaction leaves are publicly equal but for it. -/
theorem Leaves.public_congr {x : Txn} {s s' v v' t : State} (hs : Leaves x s v) (hs' : Leaves x s' v')
    (hv : PublicEqual v v') (h : hostTurn x s = .next t) : ∃ t' : State, hostTurn x s' = .next t' ∧ PublicEqual t t' := by
  obtain ⟨r, hr⟩ := hs
  obtain ⟨r', hr'⟩ := hs'
  rw [hr] at h
  cases h
  exact ⟨_, hr', hv⟩

theorem publicEqual_setOperand (r : HostReg) (w : Word) (s u : State) :
    PublicEqual (setOperand r w s) (setOperand r w (s.withSecretsOf u)) := by
  cases r <;> exact .of_eq rfl

/-- A CMD write is dropped, or runs the command its word decodes to (R270, R271). -/
theorem publicStep_writeCmd (w : Word) : PublicStep fun s => hostTurn (regTxn s .cmd (.write w)) s := by
  intro s u t h
  cases hb : s.busy with
  | true =>
    have hdrop {v : State} (hv : v.busy = true) : writeReg v .cmd w = .done (dropTransaction v) := by
      rw [writeReg, hv]; rfl
    exact (leaves_write (hdrop hb)).public_congr (leaves_write (hdrop (v := s.withSecretsOf u) hb)) (.of_eq rfl) h
  | false =>
    have hrun {v : State} (hv : v.busy = false) :
        hostTurn (regTxn v .cmd (.write w)) v = exec (decode w) (respond .written v) := by
      rw [hostTurn, busAccess_writeReg, writeReg, hv]; rfl
    have hrun' := hrun (v := s.withSecretsOf u) hb
    replace h := (hrun hb).symm.trans h
    obtain hnop | ⟨op, haccept⟩ := exec_idle_uniform (decode w)
    · rw [hnop (s := respond .written s) hb] at h
      cases h
      exact ⟨_, hrun'.trans (hnop hb), .of_eq rfl⟩
    · rw [haccept (s := respond .written s) hb] at h
      cases h
      exact ⟨_, hrun'.trans (haccept hb), .of_eq rfl⟩

/-- What a register write does depends on the register, the word and BUSY (R54, R87, R88). -/
theorem publicStep_writeReg (r : HostReg) (w : Word) : PublicStep fun s => hostTurn (regTxn s r (.write w)) s := by
  intro s u t h
  have hpublic {g : State → State} (hw : ∀ v, writeReg v r w = .done (g v))
      (hg : PublicEqual (g s) (g (s.withSecretsOf u))) :=
    (leaves_write (hw s)).public_congr (leaves_write (s := s.withSecretsOf u) (hw _)) hg h
  obtain hr | hr | rfl | rfl | rfl := r.kinds
  · exact hpublic (fun v => writeReg_operand hr v w) (publicEqual_ite (.of_eq rfl) (publicEqual_setOperand r w s u))
  · exact hpublic (fun v => writeReg_readOnly hr v w) (.of_eq rfl)
  · exact hpublic (fun _ => rfl) (publicEqual_ite (.of_eq rfl) (.of_eq rfl))
  · exact publicStep_writeCmd w s u t h
  · exact hpublic (fun _ => rfl) (.of_eq rfl)

/-- The map of the offset space and the legal transactions depend on the parameters only (R81, R85), so the transaction
reaches the same register, byte of BUF or nothing. -/
theorem publicStep_hostTurn (x : Txn) : PublicStep (hostTurn x) := by
  intro s u t h
  cases hoff : offsetOf s x.addr with
  | none => exact (leaves_elsewhere hoff).public_congr (leaves_elsewhere (s := s.withSecretsOf u) hoff) (.of_eq rfl) h
  | some off =>
    by_cases hl : legalAccess s off x.width = true
    · have hnothing (hn : NothingAt s off) :=
        (leaves_nothing hoff hl hn).public_congr (leaves_nothing (s := s.withSecretsOf u) hoff hl hn) (.of_eq rfl) h
      cases hr : regionOf s off with
      | unmapped => exact hnothing (.inl hr)
      | window =>
        obtain ⟨m, hs⟩ := leaves_window hoff hl hr
        obtain ⟨m', hs'⟩ := leaves_window (s := s.withSecretsOf u) hoff hl hr
        exact hs.public_congr hs' (publicEqual_ite (.of_eq rfl) (.of_eq rfl)) h
      | registers =>
        cases hreg : hostRegAt off with
        | none => exact hnothing (.inr ⟨hr, hreg⟩)
        | some r =>
          obtain rfl := hostRegAt_eq_some.mp hreg
          have hx := eq_regTxn hoff hl
          cases hop : x.op with
          | read =>
            rw [hop] at hx
            subst hx
            exact (leaves_read s r).public_congr (leaves_read (s.withSecretsOf u) r) (.of_eq rfl) h
          | write w =>
            rw [hop] at hx
            subst hx
            exact publicStep_writeReg r w s u t h
    · rw [hostTurn, busAccess_of_offset hoff, accessOffset_illegal hl] at h
      cases h

/-! One step (R89). -/

theorem eq_withEvent {s : State} {e : Event} {rest : List Event} (h : s.agenda = e :: rest) :
    s = State.withEvent { s with agenda := rest } e := by
  rw [State.withEvent, ← h]

theorem publicStep_withEvent (e : Event) : PublicStep fun s => step (s.withEvent e) := by
  cases e with
  | turn => exact publicStep_sequencerTurn
  | bus x => exact publicStep_hostTurn x
  | hwReset => exact .next fun _ _ => .of_eq rfl

/-- The pending events are public, so a step consumes the same one. -/
theorem publicStep_step : PublicStep step := by
  intro s u t h
  cases hagenda : s.agenda with
  | nil =>
    rw [step_of_agenda_nil hagenda] at h
    rw [step_of_agenda_nil (s := s.withSecretsOf u) hagenda]
    exact publicStep_sequencerTurn s u t h
  | cons e rest =>
    rw [eq_withEvent hagenda] at h
    rw [eq_withEvent (s := s.withSecretsOf u) hagenda]
    exact publicStep_withEvent e _ u t h

/-- Settles O56: publicly equal states differ in secret data only, and no step's public part depends on those. -/
theorem constantTime : Obligations.ConstantTime := by
  intro s s' t hpublic h
  rw [publicEqual_iff.mp hpublic]
  exact publicStep_step s s' t h

end Sys2Proof.Machine
end

/-! Prover's lemmas, 44_commands.md: acceptance, and the whole run of a command from its CMD write to its WIPE (R270, R272,
R275 to R277). -/
section
namespace Sys2Proof.Machine

/-! Acceptance (R270). -/

/-- While BUSY = 0 every command but NOP is accepted, whatever its steps are. -/
theorem exec_accepted {i : Instr} {s : State} (hi : i.wf = true) (hne : i ≠ .nop) (hb : s.busy = false) :
    exec i s = .next (acceptCommand i.latch s) := by
  rw [exec_idle hi hb, if_neg hne, opLatch_encode]
  rfl

theorem latch_decode (w : Word) : (decode w).latch = opLatch w := by
  rw [Instr.latch, high_decode, opcode_decode]
  rfl

theorem decode_ne_nop {w : Word} (hw : w ≠ 0x00000000#32) : decode w ≠ .nop :=
  fun h => hw ((decode_eq_iff (i := .nop) rfl).mp h)

theorem step_writeCmd_accepted {s : State} (hb : s.busy = false) {w : Word} (hw : w ≠ 0x00000000#32) :
    step (s.withEvent (.bus (regTxn s .cmd (.write w)))) = .next (acceptCommand (opLatch w) (respond .written s)) := by
  rw [step_writeCmd_idle hb, exec_accepted (s := respond .written s) (wf_decode w) (decode_ne_nop hw) hb, latch_decode]

/-- Settles O6: a word other than 0 decodes to a command other than NOP, which while BUSY = 0 is accepted. -/
theorem commandAccepted : Obligations.CommandAccepted :=
  ⟨fun _ _ hb hw => step_writeCmd_accepted hb hw, fun _ _ hb hi hne => exec_accepted hi hne hb⟩

/-! NOP (R272). -/

theorem exec_nop_idle {s : State} (hb : s.busy = false) : exec .nop s = .next s := by
  rw [exec_idle rfl hb, if_pos rfl]

theorem exec_nop_busy {s : State} (hb : s.busy = true) : exec .nop s = .next (dropTransaction s) :=
  if_pos hb

/-- Settles O7: NOP is not accepted while BUSY = 0, and while BUSY = 1 it and its write are dropped (R271). -/
theorem nopDoesNothing : Obligations.NopDoesNothing := by
  refine ⟨fun s hb => ⟨exec_nop_idle hb, ?_⟩, fun s hb => ⟨exec_nop_busy hb, step_writeCmd_busy hb _⟩⟩
  have hdecode : decode 0x00000000#32 = .nop := decode_encode (i := .nop) rfl
  rw [step_writeCmd_idle hb, hdecode]
  exact exec_nop_idle (s := respond .written s) hb

/-! A whole command, from its CMD write to its WIPE (R206, R277). -/

/-- The CMD write of a command other than NOP that meets BUSY = 0 is accepted. -/
theorem step_withCommand {i : Instr} {s : State} (hi : i.wf = true) (hne : i ≠ .nop) (hb : s.busy = false) :
    step (s.withCommand i) = .next (acceptCommand i.latch (respond .written s)) := by
  refine (step_writeCmd_idle hb _).trans ?_
  rw [decode_encode hi]
  exact exec_accepted (s := respond .written s) hi hne hb

/-- With BUSY = 1 and no event pending, a step is the one OP and PHASE select. -/
theorem step_running {s : State} (hb : s.busy = true) (hagenda : s.agenda = []) : step s = sequenceOf s.op s :=
  (step_of_agenda_nil hagenda).trans (sequencerTurn_busy hb)

theorem BusyRun.busy_last {n : Nat} {s t : State} (h : BusyRun n s t) : t.busy = true := by
  induction h with
  | refl hb => exact hb
  | cons _ _ _ ih => exact ih

/-- With no event pending at its start, a run is the sequencer's alone. -/
theorem BusyRun.frame {n : Nat} {s t : State} (h : BusyRun n s t) (hagenda : s.agenda = []) : EngineFrame s t := by
  induction h with
  | refl _ => exact .refl _
  | cons hb hs _ ih =>
    rw [step_of_agenda_nil hagenda] at hs
    have hframe := sequencerTurn_frame hs
    exact hframe.trans (ih (hframe.agenda_eq.trans hagenda))

/-- The state a WIPE leaves is a completed command's, with the outcome of the steps before it (R230, R277). -/
theorem completed_wipe {s v : State} (h : EngineFrame (respond .written s) v) :
    Completed s (wipe v) v.result v.detail v.outLen.toNat := by
  refine ⟨rfl, rfl, rfl, internalsZero_clearInternals v, ?_⟩
  unfold EngineFrame at h
  rw [h]
  rfl

/-- An accepted command that reaches WIPE after `n` steps completes with one step more, in the outcome it then holds. -/
theorem command_completes {i : Instr} {s v : State} {n : Nat} (hs : Ready s) (hi : i.wf = true) (hne : i ≠ .nop)
    (hrun : BusyRun n (acceptCommand i.latch (respond .written s)) v) (hphase : v.phase = .wipe) :
    CompletesIn (s.withCommand i) (n + 1) (wipe v) ∧ Completed s (wipe v) v.result v.detail v.outLen.toNat := by
  obtain ⟨-, -, hidle, hagenda⟩ := hs
  have hframe := hrun.frame hagenda
  have hwipe : step v = .next (wipe v) :=
    (step_running hrun.busy_last (hframe.agenda_eq.trans hagenda)).trans (sequenceOf_wipe _ hphase)
  exact ⟨completesIn_of_busyRun (step_withCommand hi hne hidle) hrun hwipe rfl,
    completed_wipe ((acceptCommand_frame _ _).trans hframe)⟩

/-! ZEROIZE (R275). -/

theorem zeroizeSequence_check {s : State} (h : s.phase = .check) :
    zeroizeSequence s = .next { s with phase := .bufclr } := by
  rw [zeroizeSequence, h]

theorem zeroizeSequence_bufclr {s : State} (h : s.phase = .bufclr) : zeroizeSequence s = .next (zeroizeBuf s) := by
  rw [zeroizeSequence, h]

theorem step_zeroize {s : State} (hb : s.busy = true) (hop : s.op = 6#4) (hagenda : s.agenda = []) :
    step s = zeroizeSequence s := by
  rw [step_running hb hagenda, hop]
  rfl

/-- ZEROIZE takes the steps CHECK and BUFCLR before its WIPE (R206). -/
theorem zeroize_run {u : State} (hb : u.busy = true) (hop : u.op = 6#4) (hagenda : u.agenda = [])
    (hphase : u.phase = .check) : BusyRun 2 u (zeroizeBuf { u with phase := .bufclr }) := by
  have hcheck : step u = .next { u with phase := .bufclr } :=
    (step_zeroize hb hop hagenda).trans (zeroizeSequence_check hphase)
  have hclear : step { u with phase := .bufclr } = .next (zeroizeBuf { u with phase := .bufclr }) :=
    (step_zeroize (s := { u with phase := .bufclr }) hb hop hagenda).trans (zeroizeSequence_bufclr rfl)
  exact (BusyRun.single hb hcheck hb).append (.single hb hclear hb)

/-- Settles O24: the CHECK step is PHASE alone, and the run to WIPE leaves no byte of BUF listed. -/
theorem zeroizeCompletes : Obligations.ZeroizeCompletes := by
  refine ⟨fun s ⟨hb, hop, hphase⟩ => ?_, fun s hs => ?_⟩
  · have hexec : exec .zeroize s = zeroizeSequence s := runCommand_busy hb hop
    exact hexec.trans (zeroizeSequence_check hphase)
  · have ⟨_, _, _, hagenda⟩ := hs
    obtain ⟨hrun, hdone⟩ := command_completes (i := .zeroize) hs rfl (by decide) (zeroize_run rfl rfl hagenda rfl) rfl
    exact ⟨_, hrun, fun _ => rfl, hdone⟩

/-! The reserved encodings (R276). -/

section
variable {i : Instr} {s : State}

theorem ne_nop_of_isReserved (h : i.isReserved = true) : i ≠ .nop := by
  rintro rfl
  cases h

/-- Every reserved encoding latches an OP whose steps are the same (R112, R276). -/
theorem sequenceOf_latch_reserved (hi : i.wf = true) (hr : i.isReserved = true) :
    sequenceOf i.latch = reservedSequence := by
  cases i with
  | reservedHigh high opcode =>
    have hlatch : (Instr.reservedHigh high opcode).latch = 0xF#4 := if_neg (bne_iff_ne.mp hi)
    rw [hlatch]
    rfl
  | nop | encrypt | decrypt | primEnc | primDec | primPerm | zeroize => cases hr
  | _ => rfl

/-- The CHECK step of a reserved encoding fails whatever the operands (R276). -/
theorem sequenceOf_reserved_check (hi : i.wf = true) (hr : i.isReserved = true) (hop : s.op = i.latch)
    (hphase : s.phase = .check) : sequenceOf s.op s = .next (raiseInvalidParameters .badOpcode s) := by
  rw [hop, sequenceOf_latch_reserved hi hr, reservedSequence, hphase]

end

/-- Settles O25: the failing CHECK step leads to WIPE, and neither writes BUF. -/
theorem reservedEncodings : Obligations.ReservedEncodings := by
  intro i hi hr
  have hne := ne_nop_of_isReserved hr
  refine ⟨fun s ⟨hb, hop, hphase⟩ => ?_, fun s hs => ?_⟩
  · exact (exec_running hi hne hb hop).trans (sequenceOf_reserved_check hi hr hop hphase)
  · have ⟨_, _, _, hagenda⟩ := hs
    have hcheck := (step_running (s := acceptCommand i.latch (respond .written s)) rfl hagenda).trans
      (sequenceOf_reserved_check hi hr rfl rfl)
    obtain ⟨hrun, hdone⟩ := command_completes hs hi hne (.single rfl hcheck rfl) rfl
    exact ⟨_, hrun, rfl, hdone⟩

end Sys2Proof.Machine
end

/-! Prover's lemmas, 60_exceptions.md: a failing check, at its CHECK step and as a whole command (R311 to R316). -/
section
namespace Sys2Proof.Machine

section
variable {s : State} {e : Detail}

/-- The checks of ENCRYPT and DECRYPT answer the code that the statements' list gives (R207, R316). -/
theorem aeadCheck_of_fails {d : Dir} (hp : s.params.wf = true)
    (h : ((∀ P ∈ s.params.families, P.id ≠ s.family) ∧ e = .badFamily) ∨
      ∃ P, Selects s P ∧ firstFailing (aeadFailures d P s) = some e) :
    aeadCheck d s = .error e := by
  obtain ⟨hnone, rfl⟩ | ⟨P, hsel, hfail⟩ := h
  · rw [aeadCheck, profileOf_eq_none hnone]
  · rw [aeadCheck_eq_firstFailing (profileOf_of_selects hp hsel), hfail]
    rfl

/-- The same for the raw primitive commands (R150, R316). -/
theorem primCheck_of_fails {o : PrimOp} (hp : s.params.wf = true)
    (h : ((∀ D ∈ s.params.prims, D.id ≠ s.psel) ∧ e = .badPrim) ∨
      ∃ D, SelectsPrim s D ∧ firstFailing (primFailures o D s) = some e) :
    primCheck o s = .error e := by
  obtain ⟨hnone, rfl⟩ | ⟨D, hsel, hfail⟩ := h
  · rw [primCheck, primOf_eq_none hnone]
  · rw [primCheck_eq_firstFailing (primOf_of_selects hp hsel), hfail]
    rfl

end

theorem latch_dirInstr (d : Dir) : d.instr.latch = d.op := by
  cases d <;> rfl

theorem latch_primInstr (o : PrimOp) : o.instr.latch = o.op := by
  cases o <;> rfl

section
variable {i : Instr} {s t : State} {e : Detail}

/-- NOP has no check to fail (R272). -/
theorem CheckFails.ne_nop (h : CheckFails i s e) : i ≠ .nop := by
  obtain ⟨d, rfl, -⟩ | ⟨o, rfl, -⟩ | ⟨hr, -⟩ := h
  · cases d <;> decide
  · cases o <;> decide
  · exact ne_nop_of_isReserved hr

/-- The checks look at operand registers and parameters only, which no sequencer step or acceptance writes (R54). -/
theorem CheckFails.of_frame (h : CheckFails i s e) (hf : EngineFrame s t) : CheckFails i t e := by
  unfold EngineFrame at hf
  rw [hf]
  exact h

/-- The checks do not look at what the last transaction returned. -/
theorem CheckFails.of_response (h : CheckFails i s e) (r : BusResponse) : CheckFails i (respond r s) e := h

/-- The CHECK step of a command whose check fails takes the parameter-failure path, whatever the command (R313). -/
theorem sequenceOf_failing_check (hp : s.params.wf = true) (hi : i.wf = true) (hop : s.op = i.latch)
    (hphase : s.phase = .check) (h : CheckFails i s e) :
    sequenceOf s.op s = .next (raiseInvalidParameters e s) := by
  obtain ⟨d, rfl, hfail⟩ | ⟨o, rfl, hfail⟩ | ⟨hr, rfl⟩ := h
  · rw [hop, latch_dirInstr, sequenceOf_dirOp, Dir.sequence_check hphase]
    exact aeadCheckStep_error (aeadCheck_of_fails hp hfail)
  · rw [hop, latch_primInstr, sequenceOf_primOp, primSequence_check hphase]
    exact primCheckStep_error (primCheck_of_fails hp hfail)
  · exact sequenceOf_reserved_check hi hr hop hphase

end

/-- Settles O9: exec is the running command's CHECK step, which takes the parameter-failure path. -/
theorem failingCheck : Obligations.FailingCheck := by
  intro s i e hp hi ⟨hb, hop, hphase⟩ hfail
  exact (exec_running hi hfail.ne_nop hb hop).trans (sequenceOf_failing_check hp hi hop hphase hfail)

/-- Settles O55: the accepted command's CHECK step fails as it would in `s`, and leads to WIPE. -/
theorem failuresArePrecise : Obligations.FailuresArePrecise := by
  intro s i e hs hi hfail
  have ⟨hp, _, _, hagenda⟩ := hs
  have hne := hfail.ne_nop
  have haccepted : CheckFails i (acceptCommand i.latch (respond .written s)) e :=
    (hfail.of_response .written).of_frame (acceptCommand_frame _ _)
  have hcheck := (step_running (s := acceptCommand i.latch (respond .written s)) rfl hagenda).trans
    (sequenceOf_failing_check hp hi rfl rfl haccepted)
  obtain ⟨hrun, hdone⟩ := command_completes hs hi hne (.single rfl hcheck rfl) rfl
  exact ⟨_, hrun, rfl, hdone⟩

end Sys2Proof.Machine
end

/-! Prover's lemmas, 60_exceptions.md: DONE, IRQ and the host's transactions while BUSY = 1 (R315, R318, R320). -/
section
namespace Sys2Proof.Machine

/-! Only WIPE writes DONE of the sequencer's steps (R71, R230). -/

section
variable {s t : State}

theorem initStep_next (h : initStep s = .next t) :
    ∃ P, profileOf s = some P ∧ t = { s with
      st := fit s.params.sMax (famInit P (s.kl.take P.keyLen) (s.nl.take P.nonceLen))
      phase := .ad } := by
  cases hP : profileOf s with
  | none =>
    rw [initStep, hP] at h
    cases h
  | some P =>
    rw [initStep_eq hP] at h
    cases h
    exact ⟨P, rfl, rfl⟩

theorem resetTurn_done (hph : s.phase ≠ .wipe) (h : resetTurn s = .next t) : t.done = s.done := by
  cases hp : s.phase <;> simp only [resetTurn, hp] at h
  case bufclr => cases h; exact resetClear_done s
  case wipe => exact absurd hp hph
  all_goals cases h

theorem aeadCheckStep_done {d : Dir} (h : aeadCheckStep d s = .next t) : t.done = s.done := by
  obtain ⟨e, -, rfl⟩ | ⟨P, -, rfl⟩ := aeadCheckStep_next h
  · exact raiseInvalidParameters_done e s
  · exact latchOperands_done d P _ _ _ s

theorem finalStep_done {d : Dir} (h : finalStep d s = .next t) : t.done = s.done := by
  obtain ⟨P, -, ⟨-, rfl⟩ | ⟨-, -, rfl⟩⟩ := finalStep_next h
  · rfl
  · rfl

theorem Dir.sequence_done {d : Dir} (hph : s.phase ≠ .wipe) (h : d.sequence s = .next t) : t.done = s.done := by
  cases hp : s.phase with
  | check => exact aeadCheckStep_done ((Dir.sequence_check hp).symm.trans h)
  | init =>
    obtain ⟨P, -, rfl⟩ := initStep_next ((Dir.sequence_init hp).symm.trans h)
    rfl
  | ad =>
    obtain ⟨P, -, -, rfl⟩ := adStep_next ((Dir.sequence_ad hp).symm.trans h)
    exact absorbAd_done P _ s
  | msg =>
    obtain ⟨P, -, -, -, rfl⟩ := msgStep_next ((Dir.sequence_msg hp).symm.trans h)
    exact advanceMsg_done d P _ _ s
  | final => exact finalStep_done ((Dir.sequence_final hp).symm.trans h)
  | verify =>
    cases d with
    | enc => rw [Dir.sequence, encryptSequence, hp] at h; cases h
    | dec =>
      obtain ⟨P, -, rfl⟩ := verifyStep_next ((Dir.sequence_verify hp).symm.trans h)
      rfl
  | scrub =>
    cases d with
    | enc => rw [Dir.sequence, encryptSequence, hp] at h; cases h
    | dec =>
      obtain ⟨-, rfl⟩ := scrubStep_next ((Dir.sequence_scrub hp).symm.trans h)
      rfl
  | wipe => exact absurd hp hph
  | idle | prim | bufclr =>
    cases d <;> simp only [Dir.sequence, encryptSequence, decryptSequence, hp] at h <;> cases h

theorem primSequence_done {o : PrimOp} (hph : s.phase ≠ .wipe) (h : primSequence o s = .next t) :
    t.done = s.done := by
  cases hp : s.phase <;> simp only [primSequence, hp] at h
  case check =>
    obtain ⟨e, -, rfl⟩ | ⟨D, -, rfl⟩ := primCheckStep_next h
    · exact raiseInvalidParameters_done e s
    · rfl
  case prim =>
    obtain ⟨D, -, -, -, -, rfl⟩ := primStep_next h
    rfl
  case wipe => exact absurd hp hph
  all_goals cases h

theorem zeroizeSequence_done (hph : s.phase ≠ .wipe) (h : zeroizeSequence s = .next t) : t.done = s.done := by
  cases hp : s.phase <;> simp only [zeroizeSequence, hp] at h
  case check => cases h; rfl
  case bufclr => cases h; exact zeroizeBuf_done s
  case wipe => exact absurd hp hph
  all_goals cases h

theorem reservedSequence_done (hph : s.phase ≠ .wipe) (h : reservedSequence s = .next t) : t.done = s.done := by
  cases hp : s.phase <;> simp only [reservedSequence, hp] at h
  case check => cases h; exact raiseInvalidParameters_done .badOpcode s
  case wipe => exact absurd hp hph
  all_goals cases h

/-- A sequencer step keeps DONE, or is the WIPE step of a running command (R230). -/
theorem sequencerTurn_done (h : sequencerTurn s = .next t) :
    t.done = s.done ∨ (s.busy = true ∧ s.phase = .wipe ∧ t = wipe s) := by
  cases hb : s.busy with
  | false =>
    rw [sequencerTurn_idle hb] at h
    cases h
    exact .inl rfl
  | true =>
    rw [sequencerTurn_busy hb] at h
    by_cases hph : s.phase = .wipe
    · rw [sequenceOf_wipe _ hph] at h
      cases h
      exact .inr ⟨rfl, hph, rfl⟩
    · left
      obtain ⟨-, hseq⟩ | ⟨d, -, hseq⟩ | ⟨o, -, hseq⟩ | ⟨-, hseq⟩ | hseq := sequenceOf_cases s.op <;> rw [hseq] at h
      · exact resetTurn_done hph h
      · exact Dir.sequence_done hph h
      · exact primSequence_done hph h
      · exact zeroizeSequence_done hph h
      · exact reservedSequence_done hph h

end

/-! What a host transaction does to DONE and IE (R33, R35, R270). -/

section
variable {s t : State} {x : Txn}

@[simp] theorem setOperand_done (r : HostReg) (v : Word) (s : State) : (setOperand r v s).done = s.done := by
  cases r <;> rfl

@[simp] theorem setOperand_ie (r : HostReg) (v : Word) (s : State) : (setOperand r v s).ie = s.ie := by
  cases r <;> rfl

theorem writeCtrl_done_stays_clear (v : Word) (h : s.done = false) : (writeCtrl v s).done = false := by
  cases hv : v.getLsbD 1 with
  | true => rw [writeCtrl_srst hv, resetState_done]
  | false => rw [writeCtrl_no_srst hv, h]

/-- No host transaction sets DONE. -/
theorem HostCase.done_stays_clear (h : HostCase s x t) (hd : s.done = false) : t.done = false := by
  cases h with
  | unchanged r ht => rw [ht, respond_done, hd]
  | dropped r _ ht => rw [ht, respond_done, dropTransaction_done, hd]
  | ctrl v _ ht => rw [ht, respond_done, writeCtrl_done_stays_clear v hd]
  | status v _ ht => rw [ht, respond_done, writeStatus_done, hd, Bool.false_and]
  | operand r v _ _ _ ht => rw [ht, respond_done, setOperand_done, hd]
  | command w hb _ ht =>
    obtain he | ⟨op, he⟩ := exec_idle_cases (decode w) (s := respond .written s) hb
    · cases he.symm.trans ht
      exact hd
    · cases he.symm.trans ht
      exact acceptCommand_done op _
  | buf m _ ht => rw [ht, respond_done, hd]

/-- Only a CTRL write that is no soft reset sets IE. -/
theorem HostCase.ie_cases (h : HostCase s x t) :
    t.ie = s.ie ∨ t.ie = false ∨
    ∃ v : Word, v.getLsbD 0 = true ∧ v.getLsbD 1 = false ∧ x = regTxn s .ctrl (.write v) := by
  cases h with
  | unchanged r ht => exact .inl (by rw [ht, respond_ie])
  | dropped r _ ht => exact .inl (by rw [ht, respond_ie, dropTransaction_ie])
  | ctrl v hx ht =>
    cases hv : v.getLsbD 1 with
    | true => exact .inr (.inl (by rw [ht, respond_ie, writeCtrl_srst hv, resetState_ie]))
    | false =>
      cases hv0 : v.getLsbD 0 with
      | true => exact .inr (.inr ⟨v, hv0, hv, hx⟩)
      | false => exact .inr (.inl (by rw [ht, respond_ie, writeCtrl_no_srst hv, hv0]))
  | status v _ ht => exact .inl (by rw [ht, respond_ie, writeStatus_ie])
  | operand r v _ _ _ ht => exact .inl (by rw [ht, respond_ie, setOperand_ie])
  | command w hb _ ht => exact .inl (command_frame hb ht).ie_eq
  | buf m _ ht => exact .inl (by rw [ht, respond_ie])

/-- While BUSY = 1 a host transaction is a soft reset, or leaves everything but IE, DONE, HOSTERR and the response. -/
theorem HostCase.busy_frame (h : HostCase s x t) (hb : s.busy = true) :
    (∃ v : Word, v.getLsbD 1 = true ∧ x = regTxn s .ctrl (.write v)) ∨
    t = { s with
      ie := t.ie
      done := t.done
      hostErr := t.hostErr
      response := t.response } := by
  cases h with
  | unchanged r ht => subst ht; exact .inr rfl
  | dropped r _ ht => subst ht; exact .inr rfl
  | ctrl v hx ht =>
    cases hv : v.getLsbD 1 with
    | true => exact .inl ⟨v, hv, hx⟩
    | false =>
      rw [writeCtrl_no_srst hv] at ht
      subst ht
      exact .inr rfl
  | status v _ ht => subst ht; exact .inr rfl
  | operand _ _ hidle => exact nomatch hb.symm.trans hidle
  | command _ hidle => exact nomatch hb.symm.trans hidle
  | buf _ hidle => exact nomatch hb.symm.trans hidle

end

theorem irq_eq_true {s : State} : irq s = true ↔ s.done = true ∧ s.ie = true := Bool.and_eq_true_iff

/-- Settles O39, by the event: the sequencer raises DONE at WIPE only and keeps IE; the host sets IE and never DONE. -/
theorem irqRises : Obligations.IrqRises := by
  intro s t e h hs ht
  obtain ⟨hdone, hie⟩ := irq_eq_true.mp ht
  have hlow : ¬ (s.done = true ∧ s.ie = true) := fun hup => nomatch hs.symm.trans (irq_eq_true.mpr hup)
  cases e with
  | turn =>
    rw [step_turn] at h
    have hie' : s.ie = true := (sequencerTurn_frame h).ie_eq.symm.trans hie
    obtain hkept | ⟨hb, hph, rfl⟩ := sequencerTurn_done h
    · exact absurd ⟨hkept.symm.trans hdone, hie'⟩ hlow
    · exact .inl ⟨rfl, hb, hph, hie', rfl⟩
  | hwReset =>
    cases h
    exact nomatch ht
  | bus x =>
    rw [step_bus] at h
    have hcase := hostTurn_cases h
    have hdone' : s.done = true := by
      by_contra hclear
      exact nomatch hdone.symm.trans (hcase.done_stays_clear (Bool.eq_false_of_not_eq_true hclear))
    obtain hkept | hlowered | ⟨v, hv0, hv1, rfl⟩ := hcase.ie_cases
    · exact absurd ⟨hdone', hkept.symm.trans hie⟩ hlow
    · exact nomatch hie.symm.trans hlowered
    · exact .inr ⟨hdone', v, hv0, hv1, rfl⟩

/-- Settles O45: the cases of a host transaction with BUSY = 1, and the sequencer's turn with BUSY = 0. -/
theorem busyPeriodIsUndisturbed : Obligations.BusyPeriodIsUndisturbed := by
  refine ⟨fun s t x hb h => ?_, fun s hb => (step_turn s).trans (sequencerTurn_idle hb)⟩
  rw [step_bus] at h
  have hcase := hostTurn_cases h
  exact (hcase.busy_frame hb).imp_right fun hframe => ⟨hframe, hcase.done_stays_clear⟩

end Sys2Proof.Machine
end

/-! Prover's lemmas, 60_exceptions.md: from a state of the invariant every sequencer step answers (R206, R310, R328). -/
section
namespace Sys2Proof.Machine

/-! From a state in which nothing is latched. -/

/-- A CHECK step answers whether its check passes or fails: a check that passes has its operands in BUF (R207). -/
theorem aeadCheckStep_answers (d : Dir) (s : State) : ∃ t, aeadCheckStep d s = .next t := by
  cases hc : aeadCheck d s with
  | error e => exact ⟨_, aeadCheckStep_error hc⟩
  | ok P => exact ⟨_, aeadCheckStep_ok hc⟩

theorem primCheckStep_answers (o : PrimOp) (s : State) : ∃ t, primCheckStep o s = .next t := by
  cases hc : primCheck o s with
  | error e => exact ⟨_, primCheckStep_error hc⟩
  | ok D => exact ⟨_, primCheckStep_ok hc⟩

/-- The checks of R150 put the block, the key and the output in BUF. -/
theorem primStep_answers {o : PrimOp} {s : State} {D : PrimDesc} (h : primCheck o s = .ok D) :
    ∃ t, primStep o s = .next t := by
  obtain ⟨hD, -, -, -, -, -, hkey, hin, hout⟩ := primCheck_eq_ok.mp h
  exact ⟨_, primStep_eq_afterPrim hD (fun ho => inBuf_of_region (hkey ho)) (.inr hin) (.inr hout)⟩

section
variable {s : State}

theorem FreshInv.check_answers (h : FreshInv s) (hph : s.phase = .check) : ∃ t, sequenceOf s.op s = .next t := by
  obtain ⟨hop, -⟩ | ⟨d, -, hseq⟩ | ⟨o, -, hseq⟩ | ⟨-, hseq⟩ | hseq := sequenceOf_cases s.op
  · have hpair := h.work.pair
    rw [hph, hop] at hpair
    cases hpair
  · rw [hseq, Dir.sequence_check hph]
    exact aeadCheckStep_answers d s
  · rw [hseq, primSequence_check hph]
    exact primCheckStep_answers o s
  · rw [hseq, zeroizeSequence_check hph]
    exact ⟨_, rfl⟩
  · rw [hseq, reservedSequence, hph]
    exact ⟨_, rfl⟩

/-- BUFCLR is ZEROIZE's or the one that follows reset (R206). -/
theorem FreshInv.bufclr_answers (h : FreshInv s) (hph : s.phase = .bufclr) : ∃ t, sequenceOf s.op s = .next t := by
  have hpair := h.work.pair
  rw [hph] at hpair
  simp only [reachablePair, Bool.or_eq_true, beq_iff_eq] at hpair
  obtain hop | hop := hpair
  · rw [hop]
    exact ⟨_, zeroizeSequence_bufclr hph⟩
  · have hclear : resetTurn s = .next (resetClear s) := by rw [resetTurn, hph]
    rw [hop]
    exact ⟨_, hclear⟩

theorem FreshInv.answers (h : FreshInv s) : ∃ t, sequenceOf s.op s = .next t := by
  obtain hph | hph | hph := h.phase
  · exact h.check_answers hph
  · exact h.bufclr_answers hph
  · obtain ⟨o, D, hop, hD⟩ := h.prim hph
    rw [hop, sequenceOf_primOp, primSequence_prim hph]
    exact primStep_answers hD

end

/-! Between a passed CHECK of ENCRYPT or DECRYPT and WIPE. -/

section
variable {d : Dir} {P : Profile} {s : State}

/-- The invariant keeps what the checks established about the regions, whatever events are pending (R91, R207). -/
theorem AeadInv.underway (h : AeadInv d P s) : Underway d P { s with agenda := [] } where
  params := h.work.always.params
  bufWf := h.work.always.bufWf
  busy := h.work.busy
  op := h.op
  agenda := rfl
  checked := h.running.checked

theorem AeadInv.ad_answers (h : AeadInv d P s) (hph : s.phase = .ad) : ∃ t, adStep s = .next t := by
  obtain ⟨hmid, -⟩ := (positionOk_ad hph).mp h.running.position
  exact ⟨_, adStep_eq h.profile (inBuf_block hmid h.underway.ad_inBuf _ _)⟩

theorem AeadInv.msg_answers (h : AeadInv d P s) (hph : s.phase = .msg) : ∃ t, msgStep d s = .next t := by
  obtain ⟨-, hmid⟩ := (positionOk_msg hph).mp h.running.position
  have hin : inBuf s s.inPtr.toNat (messageLen d P s) := h.underway.message_inBuf
  have hout : inBuf s s.outPtr.toNat (messageLen d P s) := h.underway.payload_inBuf
  rw [← h.running.mLen] at hin hout
  exact ⟨_, msgStep_eq h.profile (inBuf_block hmid hin _ _) (inBuf_block hmid hout _ _)⟩

/-- The tag of ENCRYPT lies in the output region after the ciphertext (R120, R220). -/
theorem AeadInv.tag_inBuf (h : AeadInv .enc P s) : inBuf s (s.outPtr.toNat + s.mLen.toNat) P.tagLen := by
  have hmLen := h.running.mLen
  have hout : messageLen .enc P s + P.tagLen = 0 ∨
    s.outPtr.toNat + (messageLen .enc P s + P.tagLen) ≤ s.params.bufSize := h.underway.output_inBuf
  show P.tagLen = 0 ∨ s.outPtr.toNat + s.mLen.toNat + P.tagLen ≤ s.params.bufSize
  omega

theorem AeadInv.final_answers (h : AeadInv d P s) : ∃ t, finalStep d s = .next t := by
  cases d with
  | enc => exact ⟨_, finalStep_enc_eq h.profile h.tag_inBuf⟩
  | dec => exact ⟨_, finalStep_dec_eq h.profile⟩

theorem AeadInv.scrub_answers (h : AeadInv d P s) : ∃ t, scrubStep s = .next t := by
  have hout : inBuf s s.outPtr.toNat (messageLen d P s) := h.underway.payload_inBuf
  rw [← h.running.mLen] at hout
  exact ⟨_, scrubStep_eq hout⟩

theorem AeadInv.answers (h : AeadInv d P s) : ∃ t, sequenceOf s.op s = .next t := by
  rw [h.op, sequenceOf_dirOp]
  have haead := h.phase
  cases hph : s.phase with
  | init =>
    rw [Dir.sequence_init hph]
    exact ⟨_, initStep_eq h.profile⟩
  | ad =>
    rw [Dir.sequence_ad hph]
    exact h.ad_answers hph
  | msg =>
    rw [Dir.sequence_msg hph]
    exact h.msg_answers hph
  | final =>
    rw [Dir.sequence_final hph]
    exact h.final_answers
  | verify =>
    obtain rfl := h.dir_eq_dec (.inl hph)
    rw [Dir.sequence_verify hph]
    exact ⟨_, verifyStep_eq h.profile⟩
  | scrub =>
    obtain rfl := h.dir_eq_dec (.inr hph)
    rw [Dir.sequence_scrub hph]
    exact h.scrub_answers
  | idle | check | wipe | prim | bufclr =>
    rw [hph] at haead
    cases haead

end

/-! The sequencer and the host. -/

/-- From a state of the invariant the sequencer always has its next state (R206). -/
theorem MachineInv.sequencerTurn_answers {s : State} (h : MachineInv s) : ∃ t, sequencerTurn s = .next t := by
  obtain hidle | hwipe | hfresh | ⟨d, P, haead⟩ := h.cases
  · exact ⟨s, sequencerTurn_idle hidle.busy⟩
  · rw [sequencerTurn_busy hwipe.busy]
    exact ⟨_, sequenceOf_wipe _ hwipe.phase⟩
  · rw [sequencerTurn_busy hfresh.work.busy]
    exact hfresh.answers
  · rw [sequencerTurn_busy haead.work.busy]
    exact haead.answers

theorem safeOutcome_of_answers {o : Out} (h : ∃ t, o = .next t) : SafeOutcome o := by
  obtain ⟨t, rfl⟩ := h
  trivial

/-- From any state a host transaction ends in a next state or a bus error: acceptance does not fault (R328). -/
theorem hostTurn_safe (x : Txn) (s : State) : SafeOutcome (hostTurn x s) := by
  rw [hostTurn]
  cases hx : busAccess s x with
  | done u => trivial
  | busErr => exact rfl
  | command w u =>
    obtain ⟨hb, -, rfl⟩ := busAccess_command hx
    obtain he | ⟨op, he⟩ := exec_idle_cases (decode w) (s := respond .written s) hb
    · exact safeOutcome_of_answers ⟨_, he⟩
    · exact safeOutcome_of_answers ⟨_, he⟩

/-- Settles O48, by the event a step takes; the invariant holds whatever events are pending. -/
theorem noStepIsStuck : Obligations.NoStepIsStuck := by
  intro s h
  refine ⟨?_, h.sequencerTurn_answers⟩
  have hrest (rest : List Event) : MachineInv { s with agenda := rest } := h.hostUpdate id
  unfold step
  split
  next => exact safeOutcome_of_answers h.sequencerTurn_answers
  next rest _ => exact safeOutcome_of_answers (hrest rest).sequencerTurn_answers
  next x rest _ => exact hostTurn_safe x _
  next => trivial

end Sys2Proof.Machine
end

/-! Prover's lemmas, 70_reset_and_hazards.md: the two resets and the buffer clear that follows (R232, R350, R351). -/
section
namespace Sys2Proof.Machine

/-- What the buffer clear goes by in the reset column (R76): the step it is (R206), and the STATUS fields it keeps. -/
theorem AtReset.clear_due {s t : State} (h : AtReset s t) :
    (t.busy = true ∧ t.phase = .bufclr ∧ t.op = 0#4) ∧ t.done = false ∧ t.result = .ok ∧ t.hostErr = false := by
  obtain ⟨-, -, hbusy, hdone, hresult, hphase, hhostErr, -, -, -, -, -, -, -, -, -, -, -, -, -, -, -, ⟨-, hop⟩, -⟩ := h
  exact ⟨⟨hbusy, hphase, hop⟩, hdone, hresult, hhostErr⟩

theorem statusWord_eq_zero {s : State} (hbusy : s.busy = false) (hdone : s.done = false) (hresult : s.result = .ok)
    (hphase : s.phase = .idle) (hhostErr : s.hostErr = false) : statusWord s = 0x00000000#32 := by
  rw [statusWord, hbusy, hdone, hresult, hphase, hhostErr]
  rfl

theorem irq_eq_false_of_done {s : State} (hdone : s.done = false) : irq s = false := by
  rw [irq, hdone, Bool.false_and]

/-- A hardware reset answers no host transaction: the last response stands. -/
theorem atReset_resetState (s : State) : AtReset s (resetState s) := atReset_respond_resetState s.response s

/-- Settles O42: both resets are the one state change, and the clear is the BUFCLR step, which keeps the STATUS fields
other than BUSY and PHASE at their reset values. -/
theorem reset : Obligations.Reset := by
  refine ⟨fun s => ⟨resetState s, step_hwReset s, atReset_resetState s⟩, fun s v hv => ?_, fun s t h => ?_⟩
  · obtain ⟨-, -, hsoftReset, -⟩ := ctrlRegister s v
    exact hsoftReset hv
  · obtain ⟨⟨hbusy, hphase, hop⟩, hdone, hresult, hhostErr⟩ := h.clear_due
    obtain ⟨-, hclear⟩ := bufclrStep t hbusy hphase
    obtain ⟨u, hstep, hbuf, hu⟩ := hclear hop
    have hdone' : u.done = false := by rw [hu, hdone]
    have hstatus : statusWord u = 0x00000000#32 :=
      statusWord_eq_zero (by rw [hu]) hdone' (by rw [hu, hresult]) (by rw [hu]) (by rw [hu, hhostErr])
    exact ⟨u, hstep, hbuf, hstatus, irq_eq_false_of_done hdone', hu⟩

end Sys2Proof.Machine
end
